-- ==== Sys2Proof/Word.lean ====
section
/-! DEFINITION. The word types of the hash core (00_scope.md R8, R12): bytes, 32-bit words, 64-bit values. All
arithmetic on words is that of `BitVec`, which wraps (R8, R13). -/

namespace Sys2Proof

/-- `u8` of 00_scope.md R12. -/
abbrev Byte := BitVec 8

/-- `u32` of 00_scope.md R12. -/
abbrev Word := BitVec 32

/-- `u64` of 00_scope.md R12. -/
abbrev DWord := BitVec 64

end Sys2Proof
end

