-- ==== Sys2Proof/Syntax.lean ====
section
/-! DEFINITION. The commands of the hash core: one constructor per row of spec/opcode_table.json. -/

namespace Sys2Proof

/-- The `ENDIAN` operand of PAD (30_encoding.md R66): the byte order of the length field. -/
inductive Endian where
  /-- `ENDIAN = 0`. -/
  | little
  /-- `ENDIAN = 1`. -/
  | big
deriving DecidableEq, Repr

/-- The five commands (00_scope.md R3; 30_encoding.md R69). The operands not named here are implicit state (R70). -/
inductive Instr where
  /-- `md4.init`, OP = 1 (41_md4.md R97). -/
  | md4Init
  /-- `md4.compress`, OP = 2 (41_md4.md R98). -/
  | md4Compress
  /-- `sha1.init`, OP = 3 (42_sha1.md R106). -/
  | sha1Init
  /-- `sha1.compress`, OP = 4 (42_sha1.md R107). -/
  | sha1Compress
  /-- `pad`, OP = 5 (40_padding.md R84), with `ENDIAN` and `BSLOG`, the base-2 logarithm of the block size
  (30_encoding.md R67). Every value of the 4-bit field is a PAD command; one other than 6 or 7 fails when it runs. -/
  | pad (endian : Endian) (bslog : Nat)
deriving DecidableEq, Repr

end Sys2Proof
end

