-- ==== Sys2Proof/WellFormed.lean ====
section
/-! DEFINITION. Which terms of `Instr` a command word can express, and which of those the spec calls legal words. -/

namespace Sys2Proof

/-- A term is well-formed if a command word expresses it: `BSLOG` is a field of 4 bits (30_encoding.md R64). -/
def Instr.wellFormed : Instr → Bool
  | .md4Init => true
  | .md4Compress => true
  | .sha1Init => true
  | .sha1Compress => true
  | .pad _ bslog => decide (bslog < 16)

/-- The commands of the column "legal words" of 30_encoding.md R69: for PAD only `BSLOG` 6 and 7. -/
def Instr.legal : Instr → Bool
  | .md4Init => true
  | .md4Compress => true
  | .sha1Init => true
  | .sha1Compress => true
  | .pad _ bslog => decide (bslog = 6 ∨ bslog = 7)

end Sys2Proof
end

