-- ==== Sys2Proof/Decode.lean ====
section
/-! DEFINITION. The command word (30_encoding.md sections 1 to 4): the decoder, total on all 2^32 words and rejecting by
name, and the encoder written from the same layout. -/

namespace Sys2Proof

/-- Why a word names no command (30_encoding.md R72). Both reasons are reported as ILLEGAL_CMD (60_exceptions.md R125). -/
inductive DecodeError where
  /-- `OP` is 0 or 6 to 15. -/
  | noSuchOperation
  /-- A bit that is reserved for this `OP` is set (30_encoding.md R68). -/
  | reservedBitSet
deriving DecidableEq, Repr

/-! The fields of 30_encoding.md R64. -/

/-- `OP = cmd[3:0]`. -/
def cmdOp (cmd : Word) : Nat := (cmd.extractLsb' 0 4).toNat

/-- `ENDIAN = cmd[4]` (30_encoding.md R66: 0 = Little, 1 = Big). -/
def cmdEndian (cmd : Word) : Endian := if cmd.extractLsb' 4 1 = 1#1 then .big else .little

/-- `RSV0 = cmd[7:5]`. -/
def cmdRsv0 (cmd : Word) : BitVec 3 := cmd.extractLsb' 5 3

/-- `BSLOG = cmd[11:8]`. -/
def cmdBslog (cmd : Word) : Nat := (cmd.extractLsb' 8 4).toNat

/-- `RSV1 = cmd[31:12]`. -/
def cmdRsv1 (cmd : Word) : BitVec 20 := cmd.extractLsb' 12 20

/-- `cmd[31:4]`, which is reserved as a whole for `OP` 1 to 4 (30_encoding.md R68). -/
def cmdAboveOp (cmd : Word) : BitVec 28 := cmd.extractLsb' 4 28

/-- A command without operands: every bit of `cmd[31:4]` must be 0 (30_encoding.md R68, R71). -/
def decodePlain (cmd : Word) (i : Instr) : Except DecodeError Instr :=
  if cmdAboveOp cmd = 0 then .ok i else .error .reservedBitSet

/-- The decoder, in the order of the checks of `Execute` (30_encoding.md R71). The check of `BSLOG` stands in the meaning
of PAD: a word whose only defect is its block size "decodes as PAD and fails with BAD_BLOCK_SIZE" (R69). -/
def decode (cmd : Word) : Except DecodeError Instr :=
  match cmdOp cmd with
  | 1 => decodePlain cmd .md4Init
  | 2 => decodePlain cmd .md4Compress
  | 3 => decodePlain cmd .sha1Init
  | 4 => decodePlain cmd .sha1Compress
  | 5 =>
    if cmdRsv1 cmd = 0 ∧ cmdRsv0 cmd = 0 then .ok (.pad (cmdEndian cmd) (cmdBslog cmd))
    else .error .reservedBitSet
  | _ => .error .noSuchOperation

/-! The encoder. -/

/-- The value of the `OP` field (30_encoding.md R65). -/
def Instr.opcode : Instr → Nat
  | .md4Init => 1
  | .md4Compress => 2
  | .sha1Init => 3
  | .sha1Compress => 4
  | .pad _ _ => 5

/-- The value of the `ENDIAN` bit (30_encoding.md R66). -/
def Endian.bit : Endian → Nat
  | .little => 0
  | .big => 1

/-- The operand fields `ENDIAN` and `BSLOG` in their places (30_encoding.md R64); 0 for the commands without operands. -/
def Instr.operandBits : Instr → Nat
  | .md4Init => 0
  | .md4Compress => 0
  | .sha1Init => 0
  | .sha1Compress => 0
  | .pad e bslog => e.bit * 2 ^ 4 + bslog * 2 ^ 8

/-- The command word of a command (30_encoding.md R64): `OP` in bits [3:0], the operand fields above it, every reserved
bit 0. -/
def encode (i : Instr) : Word := BitVec.ofNat 32 (i.opcode + i.operandBits)

/-- The instruction the decoder reads from a word of spec/opcode_table.json. A command is always one 32-bit word
(30_encoding.md R74); of `w` the low `nbits` bits count, and a set bit above bit 31 belongs to no command (log 17). -/
def decodeTableWord (nbits w : Nat) : Option Instr :=
  if w % 2 ^ nbits < 2 ^ 32 then (decode (BitVec.ofNat 32 (w % 2 ^ nbits))).toOption else none

end Sys2Proof
end

