-- ==== Sys2Proof/Config.lean ====
section
/-! DEFINITION. What the spec fixes for this hardware: the sizes of 00_scope.md R9 to R11 and the two standalone initial
vectors. The OPEN parameters of R11 are not constants here: `BASE` is an argument of `Machine.offsetOf`,
`BUS_ERROR_RESPONSE` is left to the host's side of the port, `CMD_LATENCY` is unmodelled time (logs 3, 5, 7). -/

namespace Sys2Proof.Config

/-- `WINDOW_SIZE`, 00_scope.md R11: the register window is 0x200 bytes. -/
def windowSize : Nat := 0x200

/-- `BUS_WIDTH`, 00_scope.md R11: the one access width the core accepts, in bits. -/
def busWidth : Nat := 32

/-- MD4's standalone initial vector `IV4`, words `a, b, c, d` (41_md4.md R87). -/
def iv4 : Vector Word 4 := #v[0x67452301, 0xEFCDAB89, 0x98BADCFE, 0x10325476]

/-- SHA-1's standalone initial vector `IV5`, words `h0..h4` (42_sha1.md R101). -/
def iv5 : Vector Word 5 := #v[0x67452301, 0xEFCDAB89, 0x98BADCFE, 0x10325476, 0xC3D2E1F0]

/-- The default of the OPEN parameter `KEYLEN_RANGE`, 1 to 40 inclusive (00_scope.md R11). Host software only:
`Machine.searchKeyLength` takes the range as an argument (log 15). -/
def keylenDefault : Nat × Nat := (1, 40)

end Sys2Proof.Config
end

