-- ==== Sys2Proof/Machine/State.lean ====
section
/-! DEFINITION. The state of the machine: the persistent state of the core (10_state.md R20), and the host's side of the
one port (20_memory.md R54, R62): the events still to come and the bus's responses so far. -/

namespace Sys2Proof.Machine

/-- What a host access does. A write carries its data word. For an access that is refused (20_memory.md R47) the data
has no meaning, whatever the width (log 3). -/
inductive BusOp where
  | read
  | write (v : Word)
deriving DecidableEq, Repr

/-- One host access. `offset` is the host address minus the OPEN parameter `BASE` (00_scope.md R11), so the model holds
for every `BASE`; it is negative for an address below the window (log 5). `width` is the access width in bits. -/
structure BusAccess where
  offset : Int
  width : Nat
  op : BusOp
deriving DecidableEq, Repr

/-- What the outside world can do to the core: one host access, or a reset (70_reset_and_hazards.md R140, R141). -/
inductive HostEvent where
  /-- A host access on the bus. -/
  | access (a : BusAccess)
  /-- Power-on, or assertion of the reset input, between two accesses (R140). -/
  | reset
  /-- A reset that arrives while the command of the host's write of `cmd` to CMD is executing (R141). -/
  | resetDuring (cmd : Word)
deriving DecidableEq, Repr

/-- How an access ended, as the bus reports it to the host. -/
inductive BusResponse where
  /-- An accepted read returns a word (20_memory.md R55). -/
  | data (v : Word)
  /-- An accepted write has completed (20_memory.md R53, R56). -/
  | written
  /-- A refused access: the bus error of 20_memory.md R47. How it reaches host software is the OPEN parameter
  `BUS_ERROR_RESPONSE` (log 3). -/
  | busError
  /-- The CMD write whose command a reset abandoned: "an outcome the platform defines" (70_reset_and_hazards.md R141), to
  which the model gives no value (log 6). -/
  | abandoned
deriving DecidableEq, Repr

/-- Why the machine stops with a fault: never. The core "reports errors, it does not trap" (60_exceptions.md R123), and a
refused access leaves it running (20_memory.md R48), so this type has no constructor (log 13): no step raises a fault. -/
inductive Fault : Type
deriving DecidableEq, Repr

/-- Why the model gives a step no meaning. -/
inductive Refusal where
  /-- Raised by an arm of `exec` for a command that has no meaning yet. No arm raises it. Safe. -/
  | notModelled (mnemonic : String)
  /-- Raised by a host access outside `BASE .. BASE + 0x1FF`: "not decoded by the core; what they do is outside this
  spec" (20_memory.md R49; `refuse` in 93_implementation_defined.md U14). Safe: no behaviour is claimed (log 4). -/
  | outsideWindow (offset : Int)
deriving DecidableEq, Repr

/-- The machine's state. The fields down to `sticky` are the persistent state of 10_state.md R20, each under the spec's
name; `pending` and `responses` are the model's own (log 1). -/
structure State where
  /-- `H4[0..3]`, the MD4 chaining state (10_state.md R29). -/
  h4 : Vector Word 4
  /-- `H5[0..4]`, the SHA-1 chaining state (10_state.md R30). -/
  h5 : Vector Word 5
  /-- `BLK[0..63]`, the block buffer (10_state.md R31). -/
  blk : Vector Byte 64
  /-- `LEN`, the total logical length in bytes (10_state.md R27). -/
  len : DWord
  /-- `PADBUF[0..135]`, the padding of the last successful PAD (10_state.md R34). -/
  padbuf : Vector Byte 136
  /-- `PADLEN`, the number of valid bytes of `PADBUF` (10_state.md R28). -/
  padlen : Byte
  /-- `STATUS.LASTERR` (10_state.md R25, R26). -/
  lastErr : BitVec 4
  /-- `STATUS.STICKY` (10_state.md R25, R26). -/
  sticky : Bool
  /-- The host's events still to come, oldest first (log 1). -/
  pending : List HostEvent
  /-- The bus's responses so far, oldest first (70_reset_and_hazards.md R150; log 1). -/
  responses : List BusResponse
deriving DecidableEq, Repr

/-- The state right after reset: every field of the core at the value of 10_state.md R39. The host's side is empty: no
access has been made and none is waiting (70_reset_and_hazards.md R142; logs 1, 2). -/
def State.reset : State where
  h4 := Config.iv4
  h5 := Config.iv5
  blk := Vector.replicate 64 0x00
  len := 0
  padbuf := Vector.replicate 136 0x00
  padlen := 0
  lastErr := 0
  sticky := false
  pending := []
  responses := []

/-! The writes of single pieces of state. Every meaning writes State through these. -/

/-- `H4 <- h`. -/
def State.setH4 (s : State) (h : Vector Word 4) : State := { s with h4 := h }

/-- `H5 <- h`. -/
def State.setH5 (s : State) (h : Vector Word 5) : State := { s with h5 := h }

/-- `BLK <- b`. -/
def State.setBlk (s : State) (b : Vector Byte 64) : State := { s with blk := b }

/-- `LEN <- l`. -/
def State.setLen (s : State) (l : DWord) : State := { s with len := l }

/-- `PADBUF <- b; PADLEN <- n`: the two are only ever written together (40_padding.md R84). -/
def State.setPadding (s : State) (b : Vector Byte 136) (n : Byte) : State := { s with padbuf := b, padlen := n }

/-- `STATUS.LASTERR <- e; STATUS.STICKY <- k`. -/
def State.setStatus (s : State) (e : BitVec 4) (k : Bool) : State := { s with lastErr := e, sticky := k }

/-- The host's remaining events become `p`. -/
def State.setPending (s : State) (p : List HostEvent) : State := { s with pending := p }

/-- The bus gives its response to the access being performed. -/
def State.respond (s : State) (r : BusResponse) : State := { s with responses := s.responses ++ [r] }

end Sys2Proof.Machine
end

