-- ==== Sys2Proof/Machine/Flags.lean ====
section
/-! DEFINITION. The status bits: the codes of LASTERR, what success and failure write, and the STATUS word a host reads. -/

namespace Sys2Proof.Machine

/-- The codes a command reports (60_exceptions.md R124). -/
inductive ErrCode where
  | ok
  | illegalCmd
  | badBlockSize
deriving DecidableEq, Repr

/-- The value of LASTERR for a code (60_exceptions.md R124). -/
def ErrCode.value : ErrCode → BitVec 4
  | .ok => 0
  | .illegalCmd => 1
  | .badBlockSize => 2

/-- LASTERR and STICKY after a command that reports `code`: success leaves STICKY unchanged, failure sets it
(00_scope.md R16). -/
def statusAfter (code : ErrCode) (sticky : Bool) : BitVec 4 × Bool :=
  (code.value, sticky || decide (code ≠ .ok))

/-- The STATUS register as a host reads it: LASTERR in bits [3:0], STICKY in bit [8], the rest 0 (10_state.md R25;
20_memory.md R55). -/
def statusWord (lastErr : BitVec 4) (sticky : Bool) : Word :=
  ((BitVec.ofBool sticky).setWidth 32 <<< 8) ||| lastErr.setWidth 32

end Sys2Proof.Machine
end

