-- ==== Sys2Proof/Machine/Operands.lean ====
section
/-! DEFINITION. The values commands and accesses work on: the word rotation and the byte-order conversions of 00_scope.md
R13 and R14, the block size of a PAD operand, and the halves of LEN. -/

namespace Sys2Proof.Machine

/-- `rotl(x, s)` for `1 <= s <= 31` (00_scope.md R13). -/
def rotl (x : Word) (s : Nat) : Word := (x <<< s) ||| (x >>> (32 - s))

/-- Byte `i` of a byte sequence (00_scope.md R14). The spec never reads past the end; there the model reads 0x00
(log 12). -/
def byteAt (B : List Byte) (i : Nat) : Byte := B.getD i 0x00

/-- `le32(B, i)` (00_scope.md R14). -/
def le32 (B : List Byte) (i : Nat) : Word :=
  (byteAt B i).setWidth 32 ||| ((byteAt B (i + 1)).setWidth 32 <<< 8) |||
    ((byteAt B (i + 2)).setWidth 32 <<< 16) ||| ((byteAt B (i + 3)).setWidth 32 <<< 24)

/-- `be32(B, i)` (00_scope.md R14). -/
def be32 (B : List Byte) (i : Nat) : Word :=
  ((byteAt B i).setWidth 32 <<< 24) ||| ((byteAt B (i + 1)).setWidth 32 <<< 16) |||
    ((byteAt B (i + 2)).setWidth 32 <<< 8) ||| (byteAt B (i + 3)).setWidth 32

/-- `le_bytes32(w)` (00_scope.md R14). -/
def leBytes32 (w : Word) : List Byte :=
  [w.extractLsb' 0 8, w.extractLsb' 8 8, w.extractLsb' 16 8, w.extractLsb' 24 8]

/-- `be_bytes32(w)` (00_scope.md R14). -/
def beBytes32 (w : Word) : List Byte :=
  [w.extractLsb' 24 8, w.extractLsb' 16 8, w.extractLsb' 8 8, w.extractLsb' 0 8]

/-- `le_bytes64(v)` (00_scope.md R14): the bytes `v[8i+7:8i]`, `i = 0..7`. -/
def leBytes64 (v : DWord) : List Byte := (List.range 8).map fun i => v.extractLsb' (8 * i) 8

/-- `be_bytes64(v)` (00_scope.md R14): the bytes `v[63-8i:56-8i]`, `i = 0..7`. -/
def beBytes64 (v : DWord) : List Byte := (List.range 8).map fun i => v.extractLsb' (56 - 8 * i) 8

/-- The block size of a PAD operand, `bs = 2^BSLOG` (30_encoding.md R67). -/
def blockSize (bslog : Nat) : Nat := 2 ^ bslog

/-- The values of `BSLOG` that PAD accepts (30_encoding.md R67). -/
def blockSizeSupported (bslog : Nat) : Bool := decide (bslog = 6 ∨ bslog = 7)

/-- `LEN_LO = LEN[31:0]` (10_state.md R27). -/
def lenLo (l : DWord) : Word := l.extractLsb' 0 32

/-- `LEN_HI = LEN[63:32]` (10_state.md R27). -/
def lenHi (l : DWord) : Word := l.extractLsb' 32 32

/-- `LEN = LEN_HI ‖ LEN_LO` (10_state.md R27). -/
def lenOfHalves (hi lo : Word) : DWord := hi ++ lo

/-- A byte array with the word `v` stored at index `i` through the little-endian byte lanes: bits `[8k+7:8k]` of the word
go to byte `i + k` (20_memory.md R45, R56). -/
def storeLanes {n : Nat} (b : Vector Byte n) (i : Nat) (v : Word) : Vector Byte n :=
  (((b.setIfInBounds i (v.extractLsb' 0 8)).setIfInBounds (i + 1) (v.extractLsb' 8 8)).setIfInBounds (i + 2)
    (v.extractLsb' 16 8)).setIfInBounds (i + 3) (v.extractLsb' 24 8)

end Sys2Proof.Machine
end

