-- ==== Sys2Proof/Machine/Ops.lean ====
section
/-! DEFINITION. The operations shared by commands and accesses: `succeed` and `fail`, the window decode, the rule for
accepting an access, the read map and the write map of the register window, and reset. -/

namespace Sys2Proof.Machine

/-! ## How a command ends (00_scope.md R16) -/

/-- `succeed`: LASTERR <- 0, STICKY unchanged. -/
def succeed (s : State) : State :=
  s.setStatus (statusAfter .ok s.sticky).1 (statusAfter .ok s.sticky).2

/-- `fail(code)`: LASTERR <- code, STICKY <- 1, and no other state is written. This is all there is to an error of the
core: nothing is saved, control goes nowhere, and there is no return from it (60_exceptions.md R123, R130, R131). -/
def fail (code : ErrCode) (s : State) : State :=
  s.setStatus (statusAfter code s.sticky).1 (statusAfter code s.sticky).2

/-! ## Reset -/

/-- Reset puts every piece of the core's state to its reset value (70_reset_and_hazards.md R140). The host's events to
come and the responses it has had are not the core's and stay (log 6). -/
def resetCore (s : State) : State :=
  { State.reset with pending := s.pending, responses := s.responses }

/-! ## Which accesses reach the core, and which it accepts -/

/-- The window offset of a host address, for the platform's `BASE` (20_memory.md R42, R52). -/
def offsetOf (base addr : Nat) : Int := (addr : Int) - (base : Int)

/-- The core decodes the addresses `BASE .. BASE + 0x1FF` only (20_memory.md R49). An access belongs to the window if its
first byte does (log 4). -/
def BusAccess.inWindow (a : BusAccess) : Bool := decide (0 ≤ a.offset ∧ a.offset < Config.windowSize)

/-- The one kind of access the core accepts: 32 bits, at an offset that is a multiple of 4 (20_memory.md R46). -/
def BusAccess.accepted (a : BusAccess) : Bool := decide (a.width = Config.busWidth ∧ a.offset % 4 = 0)

/-! ## The views (10_state.md R32, R33) -/

/-- `D4`: H4 serialised little-endian in the order `a, b, c, d` (10_state.md R32). -/
def md4Digest (h : Vector Word 4) : List Byte :=
  leBytes32 h[0] ++ leBytes32 h[1] ++ leBytes32 h[2] ++ leBytes32 h[3]

/-- `D5`: H5 serialised big-endian in the order `h0..h4` (10_state.md R33). -/
def sha1Digest (h : Vector Word 5) : List Byte :=
  beBytes32 h[0] ++ beBytes32 h[1] ++ beBytes32 h[2] ++ beBytes32 h[3] ++ beBytes32 h[4]

/-! ## The maps of the register window -/

/-- `BusRead(off)` (20_memory.md R55). -/
def busRead (s : State) (off : Nat) : Word :=
  if off = 0x000 then 0x00000000
  else if off = 0x004 then statusWord s.lastErr s.sticky
  else if off = 0x008 then lenLo s.len
  else if off = 0x00C then lenHi s.len
  else if off = 0x010 then s.padlen.setWidth 32
  else if 0x020 ≤ off ∧ off ≤ 0x02C then s.h4.getD ((off - 0x020) / 4) 0
  else if 0x030 ≤ off ∧ off ≤ 0x040 then s.h5.getD ((off - 0x030) / 4) 0
  else if 0x080 ≤ off ∧ off ≤ 0x0BC then le32 s.blk.toList (off - 0x080)
  else if 0x0C0 ≤ off ∧ off ≤ 0x0CC then le32 (md4Digest s.h4) (off - 0x0C0)
  else if 0x0D0 ≤ off ∧ off ≤ 0x0E0 then le32 (sha1Digest s.h5) (off - 0x0D0)
  else if 0x100 ≤ off ∧ off ≤ 0x184 then le32 s.padbuf.toList (off - 0x100)
  else 0x00000000

/-- `BusWrite(off, v)` for every offset but CMD (20_memory.md R56): the writes that only store, and those that are
ignored. -/
def busStore (s : State) (off : Nat) (v : Word) : State :=
  if off = 0x008 then s.setLen (lenOfHalves (lenHi s.len) v)
  else if off = 0x00C then s.setLen (lenOfHalves v (lenLo s.len))
  else if 0x020 ≤ off ∧ off ≤ 0x02C then s.setH4 (s.h4.setIfInBounds ((off - 0x020) / 4) v)
  else if 0x030 ≤ off ∧ off ≤ 0x040 then s.setH5 (s.h5.setIfInBounds ((off - 0x030) / 4) v)
  else if 0x080 ≤ off ∧ off ≤ 0x0BC then s.setBlk (storeLanes s.blk (off - 0x080) v)
  else s

end Sys2Proof.Machine
end

