-- ==== Sys2Proof/Machine/Md4.lean ====
section
/-! DEFINITION. The MD4 compression unit: constants and functions (41_md4.md R88 to R94), the block function (R98, R99),
and the commands MD4_INIT (R97) and MD4_COMPRESS (R98). The permutations, rotation amounts and the step formula are the
spec's general-knowledge passages G1 to G3 (log 11). -/

namespace Sys2Proof.Machine

/-! ## Functions and constants -/

/-- `F`, round 1: bitwise select (41_md4.md R88). -/
def md4F (x y z : Word) : Word := (x &&& y) ||| (~~~x &&& z)

/-- `G`, round 2: bitwise majority (41_md4.md R88). -/
def md4G (x y z : Word) : Word := (x &&& y) ||| (x &&& z) ||| (y &&& z)

/-- `H`, round 3: parity (41_md4.md R88). -/
def md4H (x y z : Word) : Word := x ^^^ y ^^^ z

/-- `Fr` of round `r = 1, 2, 3` (41_md4.md R94). -/
def md4Fn : Nat → Word → Word → Word → Word
  | 1 => md4F
  | 2 => md4G
  | _ => md4H

/-- `Kr`, the round constants (41_md4.md R89). -/
def md4K : Nat → Word
  | 1 => 0x00000000
  | 2 => 0x5A827999
  | _ => 0x6ED9EBA1

/-- `ORDERr`, the word-order permutations (41_md4.md R92). -/
def md4Order : Nat → List Nat
  | 1 => [0, 1, 2, 3, 4, 5, 6, 7, 8, 9, 10, 11, 12, 13, 14, 15]
  | 2 => [0, 4, 8, 12, 1, 5, 9, 13, 2, 6, 10, 14, 3, 7, 11, 15]
  | _ => [0, 8, 4, 12, 2, 10, 6, 14, 1, 9, 5, 13, 3, 11, 7, 15]

/-- `SHIFTr`, four rotation amounts per round (41_md4.md R93; 90_conflicts.md C2). -/
def md4Shift : Nat → List Nat
  | 1 => [3, 7, 11, 19]
  | 2 => [3, 5, 9, 13]
  | _ => [3, 9, 11, 15]

/-- The round `r = i div 16 + 1` of step `i` (41_md4.md R94). -/
def md4Round (i : Nat) : Nat := i / 16 + 1

/-- The index `k = ORDERr[t]` of the message word step `i` uses, `t = i mod 16` (41_md4.md R94). -/
def md4WordIndex (i : Nat) : Nat := (md4Order (md4Round i)).getD (i % 16) 0

/-- The rotation amount `s = SHIFTr[t mod 4]` of step `i`, `t = i mod 16` (41_md4.md R94). -/
def md4Rotation (i : Nat) : Nat := (md4Shift (md4Round i)).getD (i % 16 % 4) 0

/-! ## The block function -/

/-- `X[0..15]`, the sixteen little-endian message words (41_md4.md R90). -/
def md4Words (B : List Byte) : List Word := (List.range 16).map fun j => le32 B (4 * j)

/-- The working words `a, b, c, d` of a compression (10_state.md R37). -/
structure Md4Work where
  a : Word
  b : Word
  c : Word
  d : Word
deriving DecidableEq, Repr

/-- The new value of the word `v` that step `i` updates: `rotl(v ⊞ Fr(p, q, u) ⊞ X[k] ⊞ Kr, s)` (41_md4.md R94). -/
def md4Mix (X : List Word) (i : Nat) (v p q u : Word) : Word :=
  rotl (v + md4Fn (md4Round i) p q u + X.getD (md4WordIndex i) 0 + md4K (md4Round i)) (md4Rotation i)

/-- Step `i`, in the named form of 41_md4.md R94 and R98: the words are updated in the order `a, d, c, b`. -/
def md4Step (X : List Word) (w : Md4Work) (i : Nat) : Md4Work :=
  match i % 4 with
  | 0 => { w with a := md4Mix X i w.a w.b w.c w.d }
  | 1 => { w with d := md4Mix X i w.d w.a w.b w.c }
  | 2 => { w with c := md4Mix X i w.c w.d w.a w.b }
  | _ => { w with b := md4Mix X i w.b w.c w.d w.a }

/-- The first `n` steps from `w`; a compression runs 48 (41_md4.md R98). -/
def md4Rounds (X : List Word) (w : Md4Work) (n : Nat) : Md4Work := (List.range n).foldl (md4Step X) w

/-- The working words a compression starts from (41_md4.md R98). -/
def md4Start (h : Vector Word 4) : Md4Work := ⟨h[0], h[1], h[2], h[3]⟩

/-- `md4_block(h, B)`: the rounds, then the feed-forward (41_md4.md R98, R99). -/
def md4Block (h : Vector Word 4) (B : List Byte) : Vector Word 4 :=
  let w := md4Rounds (md4Words B) (md4Start h) 48
  #v[h[0] + w.a, h[1] + w.b, h[2] + w.c, h[3] + w.d]

/-- Step `i` in the rotating form of 41_md4.md R96, which no command uses: `tmp` takes the place of `b` and the other
words move on. -/
def md4StepRotating (X : List Word) (w : Md4Work) (i : Nat) : Md4Work :=
  { a := w.d, b := md4Mix X i w.a w.b w.c w.d, c := w.b, d := w.c }

/-- The first `n` steps in the rotating form (41_md4.md R96). -/
def md4RoundsRotating (X : List Word) (w : Md4Work) (n : Nat) : Md4Work :=
  (List.range n).foldl (md4StepRotating X) w

/-! ## The commands -/

/-- MD4_INIT (41_md4.md R97): H4 <- IV4. -/
def execMd4Init (s : State) : Host.Outcome State Fault Refusal :=
  .next (succeed (s.setH4 Config.iv4))

/-- MD4_COMPRESS (41_md4.md R98): H4 <- md4_block(H4, BLK). -/
def execMd4Compress (s : State) : Host.Outcome State Fault Refusal :=
  .next (succeed (s.setH4 (md4Block s.h4 s.blk.toList)))

end Sys2Proof.Machine
end

