-- ==== Sys2Proof/Machine/Padding.lean ====
section
/-! DEFINITION. The padding generator: the padding function (40_padding.md R77 to R81) and the command PAD (R84). -/

namespace Sys2Proof.Machine

/-- `bitlen(L) = (L × 8) mod 2^64` (40_padding.md R78). -/
def bitlen (L : Nat) : DWord := BitVec.ofNat 64 (L * 8)

/-- `field(L, e)`: the bit length in 8 bytes, in the byte order `e` (40_padding.md R79). -/
def lengthField (L : Nat) : Endian → List Byte
  | .little => leBytes64 (bitlen L)
  | .big => beBytes64 (bitlen L)

/-- `zeros_to_pad`: the filler count, from the exact sum `L + 9` (40_padding.md R80; 90_conflicts.md C1: no filler when
the remainder is 0). -/
def zerosToPad (L bs : Nat) : Nat :=
  if (L + 9) % bs > 0 then bs - (L + 9) % bs else 0

/-- `pad(L, bs, e) = [0x80] ‖ zeros(z) ‖ field(L, e)` (40_padding.md R81). -/
def pad (L bs : Nat) (e : Endian) : List Byte :=
  [0x80] ++ List.replicate (zerosToPad L bs) 0x00 ++ lengthField L e

/-- PADBUF after PAD: the padding, and 0x00 in every byte beyond it (40_padding.md R84). -/
def padBuffer (P : List Byte) : Vector Byte 136 := Vector.ofFn fun i => byteAt P i.val

/-- `PAD(e, bs)` once the field checks have passed (40_padding.md R84). -/
def writePadding (e : Endian) (bs : Nat) (s : State) : State :=
  let P := pad s.len.toNat bs e
  s.setPadding (padBuffer P) (BitVec.ofNat 8 P.length)

/-- PAD (40_padding.md R84): a block size other than 64 or 128 fails with BAD_BLOCK_SIZE and writes nothing else
(60_exceptions.md R126). -/
def execPad (endian : Endian) (bslog : Nat) (s : State) : Host.Outcome State Fault Refusal :=
  if blockSizeSupported bslog then .next (succeed (writePadding endian (blockSize bslog) s))
  else .next (fail .badBlockSize s)

end Sys2Proof.Machine
end

