-- ==== Sys2Proof/Machine/Sha1.lean ====
section
/-! DEFINITION. The SHA-1 compression unit: message schedule, round functions and step (42_sha1.md R102 to R105), the block
function (R107, R108), and the commands SHA1_INIT (R106) and SHA1_COMPRESS (R107). -/

namespace Sys2Proof.Machine

/-- `f_q(b, c, d)`, selected by `q = i div 20` (42_sha1.md R104). -/
def sha1Fn : Nat → Word → Word → Word → Word
  | 0, b, c, d => (b &&& c) ^^^ (~~~b &&& d)
  | 2, b, c, d => (b &&& c) ^^^ (b &&& d) ^^^ (c &&& d)
  | _, b, c, d => b ^^^ c ^^^ d

/-- `k_q` (42_sha1.md R104). -/
def sha1K : Nat → Word
  | 0 => 0x5A827999
  | 1 => 0x6ED9EBA1
  | 2 => 0x8F1BBCDC
  | _ => 0xCA62C1D6

/-- `W[0..15]`, the sixteen big-endian message words (42_sha1.md R102). -/
def sha1Words (B : List Byte) : List Word := (List.range 16).map fun j => be32 B (4 * j)

/-- The schedule with its next word `W[i]`, `i = |W|` (42_sha1.md R103). -/
def sha1Extend (W : List Word) : List Word :=
  let i := W.length
  W ++ [rotl (W.getD (i - 3) 0 ^^^ W.getD (i - 8) 0 ^^^ W.getD (i - 14) 0 ^^^ W.getD (i - 16) 0) 1]

/-- The schedule after `n` extensions of the sixteen message words (42_sha1.md R103). -/
def sha1ScheduleUpTo (B : List Byte) : Nat → List Word
  | 0 => sha1Words B
  | n + 1 => sha1Extend (sha1ScheduleUpTo B n)

/-- `W[0..79]` (42_sha1.md R103). -/
def sha1Schedule (B : List Byte) : List Word := sha1ScheduleUpTo B 64

/-- The working words `a, b, c, d, e` of a compression (10_state.md R37). -/
structure Sha1Work where
  a : Word
  b : Word
  c : Word
  d : Word
  e : Word
deriving DecidableEq, Repr

/-- Step `i` (42_sha1.md R105), as a simultaneous assignment. -/
def sha1Step (W : List Word) (w : Sha1Work) (i : Nat) : Sha1Work :=
  let temp := rotl w.a 5 + sha1Fn (i / 20) w.b w.c w.d + w.e + sha1K (i / 20) + W.getD i 0
  { a := temp, b := w.a, c := rotl w.b 30, d := w.c, e := w.d }

/-- The first `n` steps from `w`; a compression runs 80 (42_sha1.md R107). -/
def sha1Rounds (W : List Word) (w : Sha1Work) (n : Nat) : Sha1Work := (List.range n).foldl (sha1Step W) w

/-- The working words a compression starts from (42_sha1.md R107). -/
def sha1Start (h : Vector Word 5) : Sha1Work := ⟨h[0], h[1], h[2], h[3], h[4]⟩

/-- `sha1_block(h, B)`: the steps, then the feed-forward (42_sha1.md R107, R108). -/
def sha1Block (h : Vector Word 5) (B : List Byte) : Vector Word 5 :=
  let w := sha1Rounds (sha1Schedule B) (sha1Start h) 80
  #v[h[0] + w.a, h[1] + w.b, h[2] + w.c, h[3] + w.d, h[4] + w.e]

/-! ## The commands -/

/-- SHA1_INIT (42_sha1.md R106): H5 <- IV5. -/
def execSha1Init (s : State) : Host.Outcome State Fault Refusal :=
  .next (succeed (s.setH5 Config.iv5))

/-- SHA1_COMPRESS (42_sha1.md R107): H5 <- sha1_block(H5, BLK). -/
def execSha1Compress (s : State) : Host.Outcome State Fault Refusal :=
  .next (succeed (s.setH5 (sha1Block s.h5 s.blk.toList)))

end Sys2Proof.Machine
end

