-- ==== Sys2Proof/Machine/Dispatch.lean ====
section
/-! DEFINITION. The dispatch of a command to its meaning (30_encoding.md R71, the case over `op`): one arm per command. -/

namespace Sys2Proof.Machine

def exec (i : Instr) (s : State) : Host.Outcome State Fault Refusal :=
  match i with
  | .md4Init => Sys2Proof.Machine.execMd4Init s
  | .md4Compress => Sys2Proof.Machine.execMd4Compress s
  | .sha1Init => Sys2Proof.Machine.execSha1Init s
  | .sha1Compress => Sys2Proof.Machine.execSha1Compress s
  | .pad endian bslog => Sys2Proof.Machine.execPad endian bslog s

end Sys2Proof.Machine
end

