-- ==== Sys2Proof/Machine/Bus.lean ====
section
/-! DEFINITION. What the core does on one host event: the execution of a command word (30_encoding.md R71), the write map
with CMD in it (20_memory.md R56), accepted and refused accesses (R46 to R49) and resets (70_reset_and_hazards.md R140,
R141). -/

namespace Sys2Proof.Machine

/-- `Execute(cmd)` (30_encoding.md R71): a word that names no command fails with ILLEGAL_CMD (R72), any other runs. -/
def execute (cmd : Word) (s : State) : Host.Outcome State Fault Refusal :=
  match decode cmd with
  | .ok i => exec i s
  | .error _ => .next (fail .illegalCmd s)

/-- `BusWrite(off, v)` (20_memory.md R56). -/
def busWrite (off : Nat) (v : Word) (s : State) : Host.Outcome State Fault Refusal :=
  if off = 0x000 then execute v s else .next (busStore s off v)

/-- An accepted access: a read returns its word and changes nothing (20_memory.md R50, R55), a write completes (R53,
R56). -/
def acceptedAccess (a : BusAccess) (s : State) : Host.Outcome State Fault Refusal :=
  match a.op with
  | .read => .next (s.respond (.data (busRead s a.offset.toNat)))
  | .write v => busWrite a.offset.toNat v (s.respond .written)

/-- A host access: outside the window it does not reach the core (20_memory.md R49, log 4); of the wrong width or
alignment it is refused with a bus error and changes no state of the core (R47, R48, log 3). -/
def hostAccess (a : BusAccess) (s : State) : Host.Outcome State Fault Refusal :=
  if a.inWindow then
    if a.accepted then acceptedAccess a s else .next (s.respond .busError)
  else .refused (.outsideWindow a.offset)

/-- One event of the outside world. A reset during a command abandons the command: the state is the reset state whatever
the command had done (70_reset_and_hazards.md R141). -/
def hostEvent (e : HostEvent) (s : State) : Host.Outcome State Fault Refusal :=
  match e with
  | .access a => hostAccess a s
  | .reset => .next (resetCore s)
  | .resetDuring _ => .next (resetCore (s.respond .abandoned))

/-- The host access `sw 0x000, cmd`: one 32-bit write of a command word to CMD (30_encoding.md R63). -/
def cmdWrite (cmd : Word) : HostEvent := .access { offset := 0x000, width := Config.busWidth, op := .write cmd }

end Sys2Proof.Machine
end

