-- ==== Sys2Proof/Machine/Step.lean ====
section
/-! DEFINITION. One step of the machine: the core performs the next host event, each access and each command being atomic
(20_memory.md R50, R53, R54). With no event pending the core is idle and does nothing (70_reset_and_hazards.md R142). -/

namespace Sys2Proof.Machine

/-- One step. -/
def step (s : State) : Host.Outcome State Fault Refusal :=
  match s.pending with
  | [] => .next s
  | e :: rest => hostEvent e (s.setPending rest)

/-- `s` with a command word as the host's next event: the core fetches nothing, its next command is the word the host
writes to CMD (20_memory.md R59; log 2). Of `w` the low `nbits` bits count. -/
def State.withFetchWord (s : State) (nbits w : Nat) : State :=
  s.setPending (cmdWrite (BitVec.ofNat 32 (w % 2 ^ nbits)) :: s.pending)

end Sys2Proof.Machine
end

