-- ==== Sys2Proof/Machine/Message.lean ====
section
/-! DEFINITION. The message-level functions the source states as the contract of the cores (43_message_level.md R110 to
R114), the folds over blocks they rest on (R119), and the reconstruction of a chaining state from a digest (41_md4.md
R100, 42_sha1.md R109). `none` is the refusal of an input outside a function's domain (log 9). -/

namespace Sys2Proof.Machine

/-- Block `n` of a byte stream, `S[64n .. 64n+64)` (43_message_level.md R112). -/
def blockAt (S : List Byte) (n : Nat) : List Byte := (S.drop (64 * n)).take 64

/-- A block function applied to the blocks `0 .. |S|/64 - 1` of a stream, in order (43_message_level.md R112, R113). -/
def foldBlocks {σ : Type} (f : σ → List Byte → σ) (h : σ) (S : List Byte) : σ :=
  (List.range (S.length / 64)).foldl (fun h n => f h (blockAt S n)) h

/-- `S(A, M, L) = M ‖ pad(L, 64, e(A))`, given the algorithm's byte order (43_message_level.md R110). -/
def paddedStream (e : Endian) (M : List Byte) (L : Nat) : List Byte := M ++ pad L 64 e

/-- The inputs for which the message-level functions have a value: `L < 2^64` and `|M| ≡ L (mod 64)`
(43_message_level.md R110, R111). -/
def messageDomain (M : List Byte) (L : Nat) : Bool := decide (L < 2 ^ 64 ∧ M.length % 64 = L % 64)

/-- `md4_hash_core(M, L, iv)` (43_message_level.md R112). -/
def md4HashCore (M : List Byte) (L : Nat) (iv : Vector Word 4) : Option (List Byte) :=
  if messageDomain M L then some (md4Digest (foldBlocks md4Block iv (paddedStream .little M L))) else none

/-- `sha1_hash_core(M, L, iv)` (43_message_level.md R113). -/
def sha1HashCore (M : List Byte) (L : Nat) (iv : Vector Word 5) : Option (List Byte) :=
  if messageDomain M L then some (sha1Digest (foldBlocks sha1Block iv (paddedStream .big M L))) else none

/-- `md4_hash_default(M)` (43_message_level.md R114). -/
def md4HashDefault (M : List Byte) : Option (List Byte) := md4HashCore M M.length Config.iv4

/-- `sha1_hash_default(M)` (43_message_level.md R114). -/
def sha1HashDefault (M : List Byte) : Option (List Byte) := sha1HashCore M M.length Config.iv5

/-- `parse_MD4(D)`: the chaining state a 16-byte digest stands for; no other length has one (41_md4.md R100;
43_message_level.md R120). -/
def parseMd4 (D : List Byte) : Option (Vector Word 4) :=
  if D.length = 16 then some #v[le32 D 0, le32 D 4, le32 D 8, le32 D 12] else none

/-- `parse_SHA1(D)`: the chaining state a 20-byte digest stands for; no other length has one (42_sha1.md R109;
43_message_level.md R120). -/
def parseSha1 (D : List Byte) : Option (Vector Word 5) :=
  if D.length = 20 then some #v[be32 D 0, be32 D 4, be32 D 8, be32 D 12, be32 D 16] else none

end Sys2Proof.Machine
end

