-- ==== Sys2Proof/Machine/HostProgram.lean ====
section
/-! DEFINITION. Host programs: the syntax of 30_encoding.md R75, the pseudo-instructions and their exact expansions into bus
accesses (R76), and the command sequences that compute a message-level function (43_message_level.md R115, R116). -/

namespace Sys2Proof.Machine

/-- `sw OFF, V` (30_encoding.md R75). -/
def sw (off : Nat) (v : Word) : BusAccess := { offset := off, width := Config.busWidth, op := .write v }

/-- `lw OFF` (30_encoding.md R75). -/
def lw (off : Nat) : BusAccess := { offset := off, width := Config.busWidth, op := .read }

/-- One line of a host program (30_encoding.md R75, R76). -/
inductive HostOp where
  /-- `sw OFF, V`. -/
  | sw (off : Nat) (v : Word)
  /-- `lw OFF`. -/
  | lw (off : Nat)
  /-- A command by its mnemonic: `md4.init`, `md4.compress`, `sha1.init`, `sha1.compress`, `pad`. -/
  | command (i : Instr)
  /-- `cmd W`: any word, legal or not. -/
  | cmd (w : Word)
  /-- `len L`, for a natural number `L < 2^64`; of a larger one the model writes the low 64 bits (log 18). -/
  | len (L : Nat)
  /-- `blk B`, for exactly 64 bytes; of another length the model writes the first 64 bytes, a missing one as 0x00 (log 18). -/
  | blk (B : List Byte)
  /-- `md4.setiv w0, w1, w2, w3`. -/
  | md4Setiv (iv : Vector Word 4)
  /-- `sha1.setiv w0, w1, w2, w3, w4`. -/
  | sha1Setiv (iv : Vector Word 5)
  /-- `md4.digest`. -/
  | md4Digest
  /-- `sha1.digest`. -/
  | sha1Digest
  /-- `padbuf N`. -/
  | padbuf (n : Nat)
deriving DecidableEq, Repr

/-- The exact expansion of a line into bus accesses (30_encoding.md R75, R76). -/
def HostOp.expand : HostOp → List BusAccess
  | .sw off v => [Machine.sw off v]
  | .lw off => [Machine.lw off]
  | .command i => [Machine.sw 0x000 (encode i)]
  | .cmd w => [Machine.sw 0x000 w]
  | .len L => [Machine.sw 0x008 (lenLo (BitVec.ofNat 64 L)), Machine.sw 0x00C (lenHi (BitVec.ofNat 64 L))]
  | .blk B => (List.range 16).map fun j => Machine.sw (0x080 + 4 * j) (le32 B (4 * j))
  | .md4Setiv iv => (List.range 4).map fun i => Machine.sw (0x020 + 4 * i) (iv.getD i 0)
  | .sha1Setiv iv => (List.range 5).map fun i => Machine.sw (0x030 + 4 * i) (iv.getD i 0)
  | .md4Digest => (List.range 4).map fun i => Machine.lw (0x0C0 + 4 * i)
  | .sha1Digest => (List.range 5).map fun i => Machine.lw (0x0D0 + 4 * i)
  | .padbuf n => (List.range ((n + 3) / 4)).map fun j => Machine.lw (0x100 + 4 * j)

/-- A host program as the events the core sees: its lines expanded, in order. -/
def program (ops : List HostOp) : List HostEvent := (ops.flatMap HostOp.expand).map HostEvent.access

/-- The lines that write each block of a stream to BLK and compress it (43_message_level.md R115, the loop). For a stream that
is not a whole number of blocks, that is where `|M|` and `L` disagree modulo 64, R115 and R116 give no sequence; that the
lines then stop before the incomplete last block is the model's choice and stands for nothing the hardware does (log 18). -/
def compressBlocks (compress : Instr) (S : List Byte) : List HostOp :=
  (List.range (S.length / 64)).flatMap fun n => [.blk (blockAt S n), .command compress]

/-- The host sequence for `md4_hash_core(M, L, iv)` (43_message_level.md R115). The host places the padding itself, which
R115 allows (log 10). For `|M|` and `L` equal modulo 64 only; elsewhere see `compressBlocks` (log 18). -/
def md4Sequence (M : List Byte) (L : Nat) (iv : Vector Word 4) : List HostOp :=
  [.md4Setiv iv, .len L, .command (.pad .little 6)] ++ compressBlocks .md4Compress (paddedStream .little M L) ++
    [.md4Digest]

/-- The host sequence for `sha1_hash_core(M, L, iv)` (43_message_level.md R116; log 10). For `|M|` and `L` equal modulo 64
only; elsewhere see `compressBlocks` (log 18). -/
def sha1Sequence (M : List Byte) (L : Nat) (iv : Vector Word 5) : List HostOp :=
  [.sha1Setiv iv, .len L, .command (.pad .big 6)] ++ compressBlocks .sha1Compress (paddedStream .big M L) ++
    [.sha1Digest]

end Sys2Proof.Machine
end

