-- ==== Sys2Proof/Machine/LengthExtension.lean ====
section
/-! DEFINITION. The host-side replay of the source's length-extension scenario (43_message_level.md R120, R122). The driver
is not part of the hardware (00_scope.md R7); it stands here because R120 and R122 say what it computes through the
core's functions (log 15). -/

namespace Sys2Proof.Machine

/-- What the driver needs of an algorithm: its byte order, its hash with a fixed start, and its hash resumed from a
digest (43_message_level.md R120). -/
structure HashAlgorithm where
  endian : Endian
  hashDefault : List Byte → Option (List Byte)
  resume : List Byte → Nat → List Byte → Option (List Byte)

/-- MD4: little-endian; a digest is resumed through `parse_MD4` (43_message_level.md R120). -/
def md4Algorithm : HashAlgorithm where
  endian := .little
  hashDefault := md4HashDefault
  resume := fun suffix T mac => (parseMd4 mac).bind (md4HashCore suffix T)

/-- SHA-1: big-endian; a digest is resumed through `parse_SHA1` (43_message_level.md R120). -/
def sha1Algorithm : HashAlgorithm where
  endian := .big
  hashDefault := sha1HashDefault
  resume := fun suffix T mac => (parseSha1 mac).bind (sha1HashCore suffix T)

/-- The padding that would have followed `key ‖ message` for a key of `guess` bytes (43_message_level.md R120). -/
def glue (A : HashAlgorithm) (message : List Byte) (guess : Nat) : List Byte :=
  pad (guess + message.length) 64 A.endian

/-- The forged MAC for a key length: `T = guess + |m| + |glue| + |s|`, and the suffix hashed from the state the MAC stands
for (43_message_level.md R120). -/
def forgedMac (A : HashAlgorithm) (mac message suffix : List Byte) (guess : Nat) : Option (List Byte) :=
  A.resume suffix (guess + message.length + (glue A message guess).length + suffix.length) mac

/-- The first key length of the range `lo..hi`, in increasing order, whose forged MAC is the oracle's answer for
`message ‖ glue ‖ suffix` (43_message_level.md R122). The range is the OPEN parameter `KEYLEN_RANGE`. -/
def searchKeyLength (A : HashAlgorithm) (oracle : List Byte → Option (List Byte)) (mac message suffix : List Byte)
    (lo hi : Nat) : Option Nat :=
  (List.range' lo (hi + 1 - lo)).find? fun guess =>
    match forgedMac A mac message suffix guess with
    | none => false
    | some forged => decide (oracle (message ++ glue A message guess ++ suffix) = some forged)

end Sys2Proof.Machine
end

