-- ==== Sys2Proof/Safety.lean ====
section
/-! DEFINITION. What the states of a run look like and what counts as a safe run, in the terms the claims use. -/

namespace Sys2Proof.Machine

/-- The relations between fields that hold in every reachable state (10_state.md R40, R41). -/
def State.Inv (s : State) : Prop :=
  (s.padlen.toNat = 0 ∨ (9 ≤ s.padlen.toNat ∧ s.padlen.toNat ≤ 136)) ∧
  (0 < s.padlen.toNat → s.padbuf[0] = 0x80) ∧
  (s.lastErr = 0 ∨ s.lastErr = 1 ∨ s.lastErr = 2) ∧
  (s.lastErr ≠ 0 → s.sticky = true) ∧
  (∀ i : Fin 136, s.padlen.toNat ≤ i.val → s.padbuf[i.val] = 0x00)

/-- Two states whose core is the same: every field of 10_state.md R20 agrees. The host's side may differ. -/
def State.SameCore (s t : State) : Prop :=
  t.h4 = s.h4 ∧ t.h5 = s.h5 ∧ t.blk = s.blk ∧ t.len = s.len ∧ t.padbuf = s.padbuf ∧ t.padlen = s.padlen ∧
  t.lastErr = s.lastErr ∧ t.sticky = s.sticky

/-- An event the model gives a meaning: everything but an access outside the window (20_memory.md R49). -/
def HostEvent.inWindow : HostEvent → Bool
  | .access a => a.inWindow
  | .reset => true
  | .resetDuring _ => true

/-- A state from which every event still to come has a meaning: no run from it is refused. -/
def State.Safe (s : State) : Prop := ∀ e ∈ s.pending, e.inWindow = true

end Sys2Proof.Machine
end

