-- ==== Sys2Proof/Certificates/Slice0/Obligations.lean ====
section
/-! DEFINITION. The statements about the hash core. In this file `next s` means that a step or a command answers the next
state `s`. A next state is written as the old state with the named fields replaced, so each such equation is also the
frame: every field it does not name is unchanged. -/

open Sys2Proof Sys2Proof.Machine

/-! ## Encoding -/

/-- The legal words of the opcode map, and a PAD word with another block size, decode to what they stand for
(30_encoding.md R69, column "legal words"). -/
def Obligations.TableWordsDecode : Prop :=
  decode 0x00000001 = .ok .md4Init ∧ decode 0x00000002 = .ok .md4Compress ∧
  decode 0x00000003 = .ok .sha1Init ∧ decode 0x00000004 = .ok .sha1Compress ∧
  decode 0x00000605 = .ok (.pad .little 6) ∧ decode 0x00000615 = .ok (.pad .big 6) ∧
  decode 0x00000705 = .ok (.pad .little 7) ∧ decode 0x00000715 = .ok (.pad .big 7) ∧
  decode 0x00000F05 = .ok (.pad .little 15)

/-- Decoding the word of a well-formed instruction gives the instruction back, for every operand the fields admit. -/
def Obligations.DecodeAfterEncode : Prop :=
  ∀ i : Instr, i.wellFormed = true → decode (encode i) = .ok i

/-- Every word that decodes is the encoding of what it decodes to, and what it decodes to is well-formed: no bit of an
accepted word is dropped. -/
def Obligations.EncodeAfterDecode : Prop :=
  ∀ (w : Word) (i : Instr), decode w = .ok i → i.wellFormed = true ∧ encode i = w

/-- A word decodes to a command exactly when it matches the match and mask of the command's row (30_encoding.md R69), and
a PAD word's operands are its bit 4 and its bits [11:8] (R66, R67). -/
def Obligations.DecodeFollowsMatchAndMask : Prop :=
  ∀ w : Word,
    (decode w = .ok .md4Init ↔ w &&& 0xFFFFFFFF = 0x00000001) ∧
    (decode w = .ok .md4Compress ↔ w &&& 0xFFFFFFFF = 0x00000002) ∧
    (decode w = .ok .sha1Init ↔ w &&& 0xFFFFFFFF = 0x00000003) ∧
    (decode w = .ok .sha1Compress ↔ w &&& 0xFFFFFFFF = 0x00000004) ∧
    ((∃ e b, decode w = .ok (.pad e b)) ↔ w &&& 0xFFFFF0EF = 0x00000005) ∧
    (∀ e b, decode w = .ok (.pad e b) → (e = .big ↔ w.getLsbD 4 = true) ∧ b = w.toNat / 2 ^ 8 % 2 ^ 4)

/-! ## The decoder's errors and how a command reports -/

/-- `Execute(cmd)`: the checks in the order written, and the case over `op` (30_encoding.md R71). -/
def Obligations.ExecuteChecksInOrder : Prop :=
  ∀ (cmd : Word) (s : State),
    let op := (cmd.extractLsb' 0 4).toNat
    let bslog := (cmd.extractLsb' 8 4).toNat
    let endian := if cmd.getLsbD 4 then Endian.big else Endian.little
    execute cmd s =
      if op = 0 ∨ 6 ≤ op then .next { s with lastErr := 1, sticky := true }
      else if (op = 1 ∨ op = 2 ∨ op = 3 ∨ op = 4) ∧ cmd.extractLsb' 4 28 ≠ 0 then
        .next { s with lastErr := 1, sticky := true }
      else if op = 5 ∧ (cmd.extractLsb' 12 20 ≠ 0 ∨ cmd.extractLsb' 5 3 ≠ 0) then
        .next { s with lastErr := 1, sticky := true }
      else if op = 5 ∧ ¬(bslog = 6 ∨ bslog = 7) then .next { s with lastErr := 2, sticky := true }
      else if op = 1 then exec .md4Init s
      else if op = 2 then exec .md4Compress s
      else if op = 3 then exec .sha1Init s
      else if op = 4 then exec .sha1Compress s
      else exec (.pad endian bslog) s

/-- The illegal encodings: each fails with code 1 and changes nothing but STATUS; the zero word is one (30_encoding.md
R72). -/
def Obligations.IllegalWordsFail : Prop :=
  (∀ (w : Word) (s : State),
    ((w.extractLsb' 0 4 = 0 ∨ 6 ≤ (w.extractLsb' 0 4).toNat) ∨
     (1 ≤ (w.extractLsb' 0 4).toNat ∧ (w.extractLsb' 0 4).toNat ≤ 4 ∧ w.extractLsb' 4 28 ≠ 0) ∨
     ((w.extractLsb' 0 4).toNat = 5 ∧ (w.extractLsb' 5 3 ≠ 0 ∨ w.extractLsb' 12 20 ≠ 0))) →
    execute w s = .next { s with lastErr := 1, sticky := true }) ∧
  (∀ s : State, execute 0x00000000 s = .next { s with lastErr := 1, sticky := true })

/-- The table of error codes (60_exceptions.md R124), word by word: every CMD write executes to a next state; code 0
belongs to exactly the eight legal words, code 2 to exactly the PAD words with another block size, code 1 to all other
words; no other code is produced; and a failed command sets STICKY and writes no other state. -/
def Obligations.ErrorCodeOfEveryWord : Prop :=
  ∀ (w : Word) (s : State), ∃ t, execute w s = .next t ∧
    (t.lastErr = 0 ↔ w ∈ [0x1, 0x2, 0x3, 0x4, 0x605, 0x615, 0x705, 0x715]) ∧
    (t.lastErr = 2 ↔ w &&& 0xFFFFF0EF = 0x5 ∧ w ∉ [0x605, 0x615, 0x705, 0x715]) ∧
    (t.lastErr = 0 ∨ t.lastErr = 1 ∨ t.lastErr = 2) ∧
    (t.lastErr ≠ 0 → t = { s with lastErr := t.lastErr, sticky := true })

/-- A failed command writes LASTERR and STICKY and nothing else, and the host then learns its code by reading STATUS
(60_exceptions.md R130). -/
def Obligations.FailedCommandsArePrecise : Prop :=
  ∀ (w : Word) (s t : State), execute w s = .next t → t.lastErr ≠ 0 →
    t.h4 = s.h4 ∧ t.h5 = s.h5 ∧ t.blk = s.blk ∧ t.len = s.len ∧ t.padbuf = s.padbuf ∧ t.padlen = s.padlen ∧
    t.pending = s.pending ∧ t.responses = s.responses ∧ t.sticky = true ∧
    (busRead t 0x004).toNat = 0x100 + t.lastErr.toNat

/-- Every command writes LASTERR; a success leaves STICKY, a failure sets it; and no command reads either field: two
states that differ only in them get the same code and the same state apart from STICKY (10_state.md R36). -/
def Obligations.EveryCommandReportsInStatus : Prop :=
  ∀ (i : Instr) (s : State), ∃ t, exec i s = .next t ∧
    ((t.lastErr = 0 ∧ t.sticky = s.sticky) ∨ ((t.lastErr = 1 ∨ t.lastErr = 2) ∧ t.sticky = true)) ∧
    ∀ (e : BitVec 4) (k : Bool), ∃ k', exec i { s with lastErr := e, sticky := k } = .next { t with sticky := k' }

/-! ## The commands -/

/-- MD4_INIT (41_md4.md R97): its effect in every state, its one legal word, its one error, and its example. -/
def Obligations.Md4InitLoadsIv : Prop :=
  ∀ s : State,
    exec .md4Init s = .next { s with h4 := #v[0x67452301, 0xEFCDAB89, 0x98BADCFE, 0x10325476], lastErr := 0 } ∧
    execute 0x00000001 s = exec .md4Init s ∧
    (∀ w : Word, w.extractLsb' 0 4 = 1 → w.extractLsb' 4 28 ≠ 0 →
      execute w s = .next { s with lastErr := 1, sticky := true }) ∧
    (∀ t, exec .md4Init s = .next t → busRead t 0x020 = 0x67452301 ∧ busRead t 0x0C0 = 0x67452301)

/-- SHA1_INIT (42_sha1.md R106): its effect in every state, its one legal word, its one error, and its example. -/
def Obligations.Sha1InitLoadsIv : Prop :=
  ∀ s : State,
    exec .sha1Init s =
      .next { s with h5 := #v[0x67452301, 0xEFCDAB89, 0x98BADCFE, 0x10325476, 0xC3D2E1F0], lastErr := 0 } ∧
    execute 0x00000003 s = exec .sha1Init s ∧
    (∀ w : Word, w.extractLsb' 0 4 = 3 → w.extractLsb' 4 28 ≠ 0 →
      execute w s = .next { s with lastErr := 1, sticky := true }) ∧
    (∀ t, exec .sha1Init s = .next t → busRead t 0x040 = 0xC3D2E1F0 ∧ busRead t 0x0D0 = 0x01234567)

/-- MD4_COMPRESS (41_md4.md R98), by its pseudocode: there are message words and 48 successive values of the working
words, each step updating one word by the rule's formula, and the command adds the last values to H4; nothing else but
LASTERR changes. The tables are written out here from R89, R92 and R93, the functions from R88. The last clause is the
rule's example. -/
def Obligations.Md4CompressRunsTheSteps : Prop :=
  ∀ s : State, ∃ (X a b c d : Nat → Word),
    (∀ j < 16, ∀ k < 4, s.blk[4 * j + k]? = some ((X j).extractLsb' (8 * k) 8)) ∧
    a 0 = s.h4[0] ∧ b 0 = s.h4[1] ∧ c 0 = s.h4[2] ∧ d 0 = s.h4[3] ∧
    (∀ i < 48,
      let t := i % 16
      let K : Word := if i < 16 then 0 else if i < 32 then 0x5A827999 else 0x6ED9EBA1
      let k := (if i < 16 then [0, 1, 2, 3, 4, 5, 6, 7, 8, 9, 10, 11, 12, 13, 14, 15]
        else if i < 32 then [0, 4, 8, 12, 1, 5, 9, 13, 2, 6, 10, 14, 3, 7, 11, 15]
        else [0, 8, 4, 12, 2, 10, 6, 14, 1, 9, 5, 13, 3, 11, 7, 15]).getD t 0
      let r := (if i < 16 then [3, 7, 11, 19] else if i < 32 then [3, 5, 9, 13] else [3, 9, 11, 15]).getD (t % 4) 0
      let f := fun x y z : Word =>
        if i < 16 then (x &&& y) ||| (~~~x &&& z)
        else if i < 32 then (x &&& y) ||| (x &&& z) ||| (y &&& z) else x ^^^ y ^^^ z
      let new := fun v x y z : Word => (v + f x y z + X k + K).rotateLeft r
      a (i + 1) = (if i % 4 = 0 then new (a i) (b i) (c i) (d i) else a i) ∧
      d (i + 1) = (if i % 4 = 1 then new (d i) (a i) (b i) (c i) else d i) ∧
      c (i + 1) = (if i % 4 = 2 then new (c i) (d i) (a i) (b i) else c i) ∧
      b (i + 1) = (if i % 4 = 3 then new (b i) (c i) (d i) (a i) else b i)) ∧
    exec .md4Compress s =
      .next { s with h4 := #v[s.h4[0] + a 48, s.h4[1] + b 48, s.h4[2] + c 48, s.h4[3] + d 48], lastErr := 0 } ∧
    execute 0x00000002 s = exec .md4Compress s ∧
    (∀ w : Word, w.extractLsb' 0 4 = 2 → w.extractLsb' 4 28 ≠ 0 →
      execute w s = .next { s with lastErr := 1, sticky := true }) ∧
    (s.h4 = Config.iv4 → s.blk.toList = [0x61, 0x62, 0x63] ++ pad 3 64 .little →
      exec .md4Compress s =
        .next { s with h4 := #v[0x7A0148A4, 0x52D821AF, 0xE80AC15F, 0x9D72A67A], lastErr := 0 })

/-- SHA1_COMPRESS (42_sha1.md R107), by its pseudocode: there are eighty schedule words and 80 successive values of the
working words, and the command adds the last values to H5; nothing else but LASTERR changes. The functions and constants
are written out here from R104. The last clause is the rule's example. -/
def Obligations.Sha1CompressRunsTheSteps : Prop :=
  ∀ s : State, ∃ (W a b c d e : Nat → Word),
    (∀ j < 16, ∀ k < 4, s.blk[4 * j + k]? = some ((W j).extractLsb' (24 - 8 * k) 8)) ∧
    (∀ i, 16 ≤ i → i < 80 → W i = (W (i - 3) ^^^ W (i - 8) ^^^ W (i - 14) ^^^ W (i - 16)).rotateLeft 1) ∧
    a 0 = s.h5[0] ∧ b 0 = s.h5[1] ∧ c 0 = s.h5[2] ∧ d 0 = s.h5[3] ∧ e 0 = s.h5[4] ∧
    (∀ i < 80,
      let f : Word :=
        if i < 20 then (b i &&& c i) ^^^ (~~~(b i) &&& d i)
        else if i < 40 then b i ^^^ c i ^^^ d i
        else if i < 60 then (b i &&& c i) ^^^ (b i &&& d i) ^^^ (c i &&& d i)
        else b i ^^^ c i ^^^ d i
      let k : Word :=
        if i < 20 then 0x5A827999 else if i < 40 then 0x6ED9EBA1 else if i < 60 then 0x8F1BBCDC else 0xCA62C1D6
      a (i + 1) = (a i).rotateLeft 5 + f + e i + k + W i ∧
      b (i + 1) = a i ∧ c (i + 1) = (b i).rotateLeft 30 ∧ d (i + 1) = c i ∧ e (i + 1) = d i) ∧
    exec .sha1Compress s =
      .next { s with
        h5 := #v[s.h5[0] + a 80, s.h5[1] + b 80, s.h5[2] + c 80, s.h5[3] + d 80, s.h5[4] + e 80], lastErr := 0 } ∧
    execute 0x00000004 s = exec .sha1Compress s ∧
    (∀ w : Word, w.extractLsb' 0 4 = 4 → w.extractLsb' 4 28 ≠ 0 →
      execute w s = .next { s with lastErr := 1, sticky := true }) ∧
    (s.h5 = Config.iv5 → s.blk.toList = [0x61, 0x62, 0x63] ++ pad 3 64 .big →
      exec .sha1Compress s =
        .next { s with h5 := #v[0xA9993E36, 0x4706816A, 0xBA3E2571, 0x7850C26C, 0x9CD0D89D], lastErr := 0 })

/-- PAD (40_padding.md R84). With a supported block size it completes in every state, with every byte of PADBUF and
PADLEN as R77 to R81 compute them from LEN, LASTERR 0, and nothing else changed: the filler count `z` is that of R80, the
length field is the low 64 bits of `LEN × 8` (R78) in the byte order asked for (R79). Then the rule's legal words, its two
exceptions, and its example. -/
def Obligations.PadWritesThePadding : Prop :=
  (∀ (e : Endian) (bslog : Nat) (s : State), bslog = 6 ∨ bslog = 7 →
    let bs := 2 ^ bslog
    let r := (s.len.toNat + 1 + 8) % bs
    let z := if r > 0 then bs - r else 0
    let bits := s.len.toNat * 8 % 2 ^ 64
    ∃ (P : Vector Byte 136) (n : Byte),
      exec (.pad e bslog) s = .next { s with padbuf := P, padlen := n, lastErr := 0 } ∧
      n.toNat = 1 + z + 8 ∧
      P[0]? = some 0x80 ∧
      (∀ i, 1 ≤ i → i < 1 + z → P[i]? = some 0x00) ∧
      (∀ j < 8, (P[1 + z + j]?).map BitVec.toNat =
        some (match e with
          | .little => bits / 2 ^ (8 * j) % 2 ^ 8
          | .big => bits / 2 ^ (56 - 8 * j) % 2 ^ 8)) ∧
      (∀ i, n.toNat ≤ i → i < 136 → P[i]? = some 0x00)) ∧
  (∀ s : State,
    execute 0x605 s = exec (.pad .little 6) s ∧ execute 0x615 s = exec (.pad .big 6) s ∧
    execute 0x705 s = exec (.pad .little 7) s ∧ execute 0x715 s = exec (.pad .big 7) s ∧
    (∀ w : Word, w.extractLsb' 0 4 = 5 → w.extractLsb' 5 3 ≠ 0 ∨ w.extractLsb' 12 20 ≠ 0 →
      execute w s = .next { s with lastErr := 1, sticky := true }) ∧
    (∀ w : Word, w &&& 0xFFFFF0EF = 0x5 → (w.extractLsb' 8 4).toNat ≠ 6 → (w.extractLsb' 8 4).toNat ≠ 7 →
      execute w s = .next { s with lastErr := 2, sticky := true }) ∧
    (s.len = 3 → ∃ (P : Vector Byte 136), execute 0x605 s = .next { s with padbuf := P, padlen := 61, lastErr := 0 } ∧
      P.toList = [0x80] ++ List.replicate 52 0x00 ++ [0x18] ++ List.replicate 82 0x00))

/-- PAD with any other block size fails with BAD_BLOCK_SIZE and keeps PADBUF and PADLEN, and no other command ever raises
that code (60_exceptions.md R126). -/
def Obligations.PadRejectsOtherBlockSizes : Prop :=
  (∀ (e : Endian) (bslog : Nat) (s : State), bslog ≠ 6 → bslog ≠ 7 →
    exec (.pad e bslog) s = .next { s with lastErr := 2, sticky := true }) ∧
  (∀ (i : Instr) (s t : State), exec i s = .next t → t.lastErr = 2 →
    ∃ e bslog, i = .pad e bslog ∧ bslog ≠ 6 ∧ bslog ≠ 7)

/-- The implicit operands of each command (30_encoding.md R70): besides STATUS a command writes only what its row names,
and what it writes depends only on what its row says it reads. -/
def Obligations.ImplicitOperandsOfCommands : Prop :=
  (∀ s : State, ∃ t, exec .md4Init s = .next t ∧
    t = { s with h4 := t.h4, lastErr := t.lastErr, sticky := t.sticky } ∧
    ∀ s' : State, ∃ t', exec .md4Init s' = .next t' ∧ t'.h4 = t.h4) ∧
  (∀ s : State, ∃ t, exec .md4Compress s = .next t ∧
    t = { s with h4 := t.h4, lastErr := t.lastErr, sticky := t.sticky } ∧
    ∀ s' : State, s'.h4 = s.h4 → s'.blk = s.blk → ∃ t', exec .md4Compress s' = .next t' ∧ t'.h4 = t.h4) ∧
  (∀ s : State, ∃ t, exec .sha1Init s = .next t ∧
    t = { s with h5 := t.h5, lastErr := t.lastErr, sticky := t.sticky } ∧
    ∀ s' : State, ∃ t', exec .sha1Init s' = .next t' ∧ t'.h5 = t.h5) ∧
  (∀ s : State, ∃ t, exec .sha1Compress s = .next t ∧
    t = { s with h5 := t.h5, lastErr := t.lastErr, sticky := t.sticky } ∧
    ∀ s' : State, s'.h5 = s.h5 → s'.blk = s.blk → ∃ t', exec .sha1Compress s' = .next t' ∧ t'.h5 = t.h5) ∧
  (∀ (e : Endian) (b : Nat) (s : State), ∃ t, exec (.pad e b) s = .next t ∧
    t = { s with padbuf := t.padbuf, padlen := t.padlen, lastErr := t.lastErr, sticky := t.sticky } ∧
    ∀ s' : State, b = 6 ∨ b = 7 → s'.len = s.len →
      ∃ t', exec (.pad e b) s' = .next t' ∧ t'.padbuf = t.padbuf ∧ t'.padlen = t.padlen)

/-- Every command is a function of the core's state and the command word alone (43_message_level.md R121): from two
states with the same core, whatever the host still has to do and has been answered, a word gives the same core. -/
def Obligations.CommandsAreFunctionsOfTheCore : Prop :=
  ∀ (w : Word) (s₁ s₂ : State), s₁.SameCore s₂ →
    ∃ t₁ t₂, execute w s₁ = .next t₁ ∧ execute w s₂ = .next t₂ ∧ t₁.SameCore t₂ ∧
      t₁.pending = s₁.pending ∧ t₁.responses = s₁.responses

/-! ## The padding function -/

/-- The properties of `pad` the spec derives from its definition (40_padding.md section 1, the rule after the padding
function). -/
def Obligations.PaddingProperties : Prop :=
  ∀ (L bs : Nat) (e : Endian), bs = 64 ∨ bs = 128 →
    (L + (pad L bs e).length) % bs = 0 ∧
    (pad L bs e)[0]? = some 0x80 ∧
    zerosToPad L bs < bs ∧
    (zerosToPad L bs = 0 ↔ L % bs = bs - 9) ∧
    (zerosToPad L bs = bs - 1 ↔ L % bs = bs - 8) ∧
    9 ≤ (pad L bs e).length ∧ (pad L bs e).length ≤ bs + 8

/-- `pad` depends on `L` only through `L mod bs` and the bit length, and the Little and Big paddings differ only in the
order of the last 8 bytes (40_padding.md section 1, last property of the padding function). -/
def Obligations.PaddingDependsOnResidueAndBitLength : Prop :=
  ∀ (L L' bs : Nat) (e : Endian), bs = 64 ∨ bs = 128 →
    (L % bs = L' % bs → bitlen L = bitlen L' → pad L bs e = pad L' bs e) ∧
    pad L bs .big =
      (pad L bs .little).take (1 + zerosToPad L bs) ++ ((pad L bs .little).drop (1 + zerosToPad L bs)).reverse

/-! ## The compression functions -/

/-- The rotating form of MD4's steps holds the same words as the named form after every 4 steps, so after all 48
(41_md4.md section 1, the rule on the equivalent rotating form). -/
def Obligations.Md4RotatingFormAgrees : Prop :=
  ∀ (X : List Word) (w : Md4Work) (m : Nat), md4RoundsRotating X w (4 * m) = md4Rounds X w (4 * m)

/-- MD4's boolean functions, bit by bit: select, majority, parity (41_md4.md R88). -/
def Obligations.Md4FunctionsBitwise : Prop :=
  ∀ (x y z : Word),
    md4F x y z = (x &&& y) ||| (~~~x &&& z) ∧ md4G x y z = (x &&& y) ||| (x &&& z) ||| (y &&& z) ∧
    md4H x y z = x ^^^ y ^^^ z ∧
    ∀ i < 32,
      (md4F x y z).getLsbD i = (if x.getLsbD i then y.getLsbD i else z.getLsbD i) ∧
      (md4G x y z).getLsbD i =
        decide (2 ≤ (x.getLsbD i).toNat + (y.getLsbD i).toNat + (z.getLsbD i).toNat) ∧
      (md4H x y z).getLsbD i =
        decide (((x.getLsbD i).toNat + (y.getLsbD i).toNat + (z.getLsbD i).toNat) % 2 = 1)

/-- SHA-1's functions of steps 0 to 19 and 40 to 59 are MD4's `F` and `G` (42_sha1.md section 1, after the table of round
functions). -/
def Obligations.Sha1FunctionsAreMd4Functions : Prop :=
  ∀ (b c d : Word), sha1Fn 0 b c d = md4F b c d ∧ sha1Fn 2 b c d = md4G b c d

/-! ## Host accesses -/

/-- The read map (20_memory.md R55): from every state whose next event is an accepted read, the step completes, returns
the word the map gives, and changes nothing of the core. The byte arrays are said byte by byte, through the byte lanes.
The response recorded with the word is the model's way to hold what a read returned (log 1). -/
def Obligations.BusReadMap : Prop :=
  ∀ (s : State) (off : Nat) (rest : List HostEvent), off < 0x200 → off % 4 = 0 →
    s.pending = .access { offset := off, width := 32, op := .read } :: rest →
    ∃ v : Word, step s = .next { s with pending := rest, responses := s.responses ++ [.data v] } ∧
      (off = 0x000 → v = 0) ∧
      (off = 0x004 → v.toNat = (if s.sticky then 0x100 else 0) + s.lastErr.toNat) ∧
      (off = 0x008 → v.toNat = s.len.toNat % 2 ^ 32) ∧
      (off = 0x00C → v.toNat = s.len.toNat / 2 ^ 32) ∧
      (off = 0x010 → v.toNat = s.padlen.toNat) ∧
      (∀ i < 4, off = 0x020 + 4 * i → s.h4[i]? = some v) ∧
      (∀ i < 5, off = 0x030 + 4 * i → s.h5[i]? = some v) ∧
      (∀ j < 16, off = 0x080 + 4 * j → ∀ k < 4, s.blk[4 * j + k]? = some (v.extractLsb' (8 * k) 8)) ∧
      (∀ i < 4, off = 0x0C0 + 4 * i → s.h4[i]? = some v) ∧
      (∀ i < 5, off = 0x0D0 + 4 * i → ∃ h, s.h5[i]? = some h ∧
        v = h.extractLsb' 0 8 ++ h.extractLsb' 8 8 ++ h.extractLsb' 16 8 ++ h.extractLsb' 24 8) ∧
      (∀ j < 34, off = 0x100 + 4 * j → ∀ k < 4, s.padbuf[4 * j + k]? = some (v.extractLsb' (8 * k) 8)) ∧
      (0x014 ≤ off ∧ off ≤ 0x01F ∨ 0x044 ≤ off ∧ off ≤ 0x07F ∨ 0x0E4 ≤ off ∧ off ≤ 0x0FF ∨ 0x188 ≤ off → v = 0)

/-- The write map (20_memory.md R56): from every state whose next event is an accepted write, the step completes; a write
to CMD executes the word; a write to a stored register replaces that register alone, and of BLK the four bytes of the
lanes alone; every other write has no effect on the core. The recorded response is the model's (log 1). -/
def Obligations.BusWriteMap : Prop :=
  ∀ (s : State) (off : Nat) (v : Word) (rest : List HostEvent), off < 0x200 → off % 4 = 0 →
    s.pending = .access { offset := off, width := 32, op := .write v } :: rest →
    let u : State := { s with pending := rest, responses := s.responses ++ [.written] }
    (off = 0x000 → step s = execute v u) ∧
    (off = 0x008 → ∃ l, step s = .next { u with len := l } ∧
      l.toNat = s.len.toNat / 2 ^ 32 * 2 ^ 32 + v.toNat) ∧
    (off = 0x00C → ∃ l, step s = .next { u with len := l } ∧
      l.toNat = v.toNat * 2 ^ 32 + s.len.toNat % 2 ^ 32) ∧
    (∀ i < 4, off = 0x020 + 4 * i → ∃ h, step s = .next { u with h4 := h } ∧
      ∀ m < 4, h[m]? = if m = i then some v else s.h4[m]?) ∧
    (∀ i < 5, off = 0x030 + 4 * i → ∃ h, step s = .next { u with h5 := h } ∧
      ∀ m < 5, h[m]? = if m = i then some v else s.h5[m]?) ∧
    (∀ j < 16, off = 0x080 + 4 * j → ∃ b, step s = .next { u with blk := b } ∧
      (∀ k < 4, b[4 * j + k]? = some (v.extractLsb' (8 * k) 8)) ∧
      (∀ m < 64, m < 4 * j ∨ 4 * j + 4 ≤ m → b[m]? = s.blk[m]?)) ∧
    (off ≠ 0x000 → off ≠ 0x008 → off ≠ 0x00C → ¬(0x020 ≤ off ∧ off ≤ 0x040) → ¬(0x080 ≤ off ∧ off ≤ 0x0BC) →
      step s = .next u)

/-- A read of a stored register right after a write to it returns the word written, and a write to one register leaves
what every other writable register reads (20_memory.md section 4, clause (1) of the ordering rule). -/
def Obligations.ReadAfterWrite : Prop :=
  ∀ (s : State) (off off' : Nat) (v : Word), off % 4 = 0 → off' % 4 = 0 →
    off = 0x008 ∨ off = 0x00C ∨ 0x020 ≤ off ∧ off ≤ 0x040 ∨ 0x080 ≤ off ∧ off ≤ 0x0BC →
    off' = 0x008 ∨ off' = 0x00C ∨ 0x020 ≤ off' ∧ off' ≤ 0x040 ∨ 0x080 ≤ off' ∧ off' ≤ 0x0BC →
    busRead (busStore s off v) off' = if off' = off then v else busRead s off'

/-- An access of another width, or at an offset that is no multiple of 4, is refused with a bus error: nothing of the core
changes, no command executes and no data is returned; the bus error shows on the bus and not in STATUS (20_memory.md R47,
60_exceptions.md R128). Two things are the model's choice: that the run goes on after the error (log 3), and that the first
address of an access decides whether it belongs to the window, so that one that straddles the window's end is such a refused
access (log 4). -/
def Obligations.RefusedAccessChangesNothing : Prop :=
  ∀ (s : State) (a : BusAccess) (rest : List HostEvent), 0 ≤ a.offset → a.offset < 0x200 →
    a.width ≠ 32 ∨ a.offset % 4 ≠ 0 → s.pending = .access a :: rest →
    step s = .next { s with pending := rest, responses := s.responses ++ [.busError] }

/-- An access outside the window is refused by the model under a name of its own (20_memory.md section 3, "not decoded by
the core"; 93_implementation_defined.md U14; that the access's first address decides is the model's choice, log 4). -/
def Obligations.OutsideWindowIsRefused : Prop :=
  ∀ (s : State) (a : BusAccess) (rest : List HostEvent), a.offset < 0 ∨ 0x200 ≤ a.offset →
    s.pending = .access a :: rest → step s = .refused (.outsideWindow a.offset)

/-- The window is the host addresses `BASE .. BASE + 0x1FF`, whatever `BASE` is (20_memory.md sections 1 and 3). The model's
choices in this: an access of any width belongs to the window by its first address alone (log 4), and an access carries its
offset from `BASE`, which is left open (log 5). -/
def Obligations.WindowIsBasePlusOffset : Prop :=
  ∀ (base addr width : Nat) (op : BusOp),
    (BusAccess.inWindow { offset := offsetOf base addr, width := width, op := op } = true ↔
      base ≤ addr ∧ addr ≤ base + 0x1FF)

/-! ## The step -/

/-- When the host's next access writes a word to CMD that decodes to `i`, the step is `exec` of `i` on the state in which
the access has been taken and answered; the same holds for a word placed by `withFetchWord`. The list of events, its
responses and how a word is placed are the model's (logs 1, 2). -/
def Obligations.StepRunsDecodedCommand : Prop :=
  (∀ (s : State) (w : Word) (i : Instr) (rest : List HostEvent),
    s.pending = .access { offset := 0x000, width := 32, op := .write w } :: rest → decode w = .ok i →
    step s = exec i { s with pending := rest, responses := s.responses ++ [.written] }) ∧
  (∀ (s : State) (w : Nat) (i : Instr), decodeTableWord 32 w = some i →
    step (s.withFetchWord 32 w) = exec i { s with responses := s.responses ++ [.written] })

/-- After reset the core is idle and does nothing until the host's first access, and the first accepted CMD write
executes against the reset state (70_reset_and_hazards.md section 1). The clause on every state with no event pending goes
beyond the reset state of that section and is the model's choice (log 16). -/
def Obligations.IdleUntilFirstAccess : Prop :=
  step State.reset = .next State.reset ∧
  (∀ s : State, s.pending = [] → step s = .next s) ∧
  (∀ (w : Word) (rest : List HostEvent),
    step { State.reset with pending := .access { offset := 0x000, width := 32, op := .write w } :: rest } =
      execute w { State.reset with pending := rest, responses := [.written] })

/-- Which steps answer a next state: all but those whose next event is an access outside the window; no step faults. The
model's choices in this: an access outside the window is refused by name, and its first address decides (log 4); the run goes
on after a bus error (log 3); no step faults (log 13); a step with no event pending answers the same state (log 16). -/
def Obligations.StepAnswersUnlessOutsideWindow : Prop :=
  ∀ s : State,
    (∃ t, step s = .next t) ∨
    (∃ a rest, s.pending = .access a :: rest ∧ (a.offset < 0 ∨ 0x200 ≤ a.offset) ∧
      step s = .refused (.outsideWindow a.offset))

/-- A run in which every access lies in the window never stops: after any number of steps there is a next state, and its
events still lie in the window. The model's choices in this: the run goes on after a bus error (log 3), the first address of an
access decides whether it lies in the window (log 4), no step faults (log 13), and a step with no event pending, which a run of
more steps than events reaches, answers the same state (log 16). -/
def Obligations.SafeRunsNeverStop : Prop :=
  ∀ (s : State) (n : Nat), s.Safe → ∃ t, core.run n s = .next t ∧ t.Safe

/-! ## Reset -/

/-- The reset values of every piece of state (10_state.md R39). -/
def Obligations.ResetValues : Prop :=
  State.reset.h4 = #v[0x67452301, 0xEFCDAB89, 0x98BADCFE, 0x10325476] ∧
  State.reset.h5 = #v[0x67452301, 0xEFCDAB89, 0x98BADCFE, 0x10325476, 0xC3D2E1F0] ∧
  (∀ i < 64, State.reset.blk[i]? = some 0x00) ∧ State.reset.len = 0 ∧
  (∀ i < 136, State.reset.padbuf[i]? = some 0x00) ∧ State.reset.padlen = 0 ∧
  State.reset.lastErr = 0 ∧ State.reset.sticky = false

/-- A reset puts every piece of the core's state to its reset value, from every state (70_reset_and_hazards.md section 1).
That what the host has still to do and has been answered survives the reset is the model's choice (log 6). -/
def Obligations.ResetRestoresEveryPiece : Prop :=
  ∀ (s : State) (rest : List HostEvent), s.pending = .reset :: rest →
    step s = .next { s with
      h4 := #v[0x67452301, 0xEFCDAB89, 0x98BADCFE, 0x10325476]
      h5 := #v[0x67452301, 0xEFCDAB89, 0x98BADCFE, 0x10325476, 0xC3D2E1F0]
      blk := Vector.replicate 64 0x00
      len := 0
      padbuf := Vector.replicate 136 0x00
      padlen := 0
      lastErr := 0
      sticky := false
      pending := rest }

/-- A reset during a command abandons it: the core's state is the reset state whatever the command (section 1 of
70_reset_and_hazards.md). The model's choices in this (log 6): the host's further events survive the reset, and the interrupted
access, whose outcome the platform defines, is answered by the response `abandoned`, which joins those given before. -/
def Obligations.ResetAbandonsRunningCommand : Prop :=
  ∀ (s : State) (cmd : Word) (rest : List HostEvent), s.pending = .resetDuring cmd :: rest →
    ∃ t, step s = .next t ∧ State.reset.SameCore t ∧ t.pending = rest ∧
      t.responses = s.responses ++ [.abandoned]

/-! ## Rules of the whole machine -/

/-- The invariants of the reachable states hold at reset (10_state.md section 6). -/
def Obligations.InvariantHoldsAtReset : Prop := State.reset.Inv

/-- Every step keeps the invariants of the reachable states: the legal values of PADLEN and LASTERR, the marker byte, the
zero bytes beyond PADLEN, and STICKY after an error (10_state.md section 6). -/
def Obligations.EveryStepKeepsInvariant : Prop :=
  ∀ s t : State, s.Inv → step s = .next t → t.Inv

/-- Nothing but a reset clears STICKY (70_reset_and_hazards.md R143). -/
def Obligations.OnlyResetClearsSticky : Prop :=
  ∀ s t : State, step s = .next t → s.sticky = true → t.sticky = false →
    ∃ rest, s.pending = .reset :: rest ∨ ∃ cmd, s.pending = .resetDuring cmd :: rest

/-- LASTERR and STICKY are written by commands and reset only: by no read, no other write and no bus error (10_state.md
section 3, the rule on LASTERR and STICKY). -/
def Obligations.OnlyCommandsWriteStatus : Prop :=
  ∀ s t : State, step s = .next t → t.lastErr ≠ s.lastErr ∨ t.sticky ≠ s.sticky →
    ∃ e rest, s.pending = e :: rest ∧
      (e = .reset ∨ (∃ cmd, e = .resetDuring cmd) ∨
        ∃ cmd, e = .access { offset := 0x000, width := 32, op := .write cmd })

/-- H4 is written only by host writes of MD4_A to MD4_D, MD4_INIT, MD4_COMPRESS and reset, and H5 only by host writes of
SHA1_H0 to SHA1_H4, SHA1_INIT, SHA1_COMPRESS and reset (10_state.md section 4). -/
def Obligations.WritersOfChainingState : Prop :=
  ∀ s t : State, step s = .next t →
    (t.h4 ≠ s.h4 → ∃ e rest, s.pending = e :: rest ∧
      (e = .reset ∨ (∃ cmd, e = .resetDuring cmd) ∨
       (∃ i < 4, ∃ v, e = .access { offset := 0x020 + 4 * (i : Nat), width := 32, op := .write v }) ∨
       (∃ cmd, e = .access { offset := 0x000, width := 32, op := .write cmd } ∧ (cmd = 0x1 ∨ cmd = 0x2)))) ∧
    (t.h5 ≠ s.h5 → ∃ e rest, s.pending = e :: rest ∧
      (e = .reset ∨ (∃ cmd, e = .resetDuring cmd) ∨
       (∃ i < 5, ∃ v, e = .access { offset := 0x030 + 4 * (i : Nat), width := 32, op := .write v }) ∨
       (∃ cmd, e = .access { offset := 0x000, width := 32, op := .write cmd } ∧ (cmd = 0x3 ∨ cmd = 0x4))))

/-- No command writes BLK or LEN: they change only by a host write of their own registers or a reset (10_state.md
sections 3 and 4). -/
def Obligations.WritersOfBlkAndLen : Prop :=
  ∀ s t : State, step s = .next t →
    (t.blk ≠ s.blk → ∃ e rest, s.pending = e :: rest ∧
      (e = .reset ∨ (∃ cmd, e = .resetDuring cmd) ∨
       ∃ j < 16, ∃ v, e = .access { offset := 0x080 + 4 * (j : Nat), width := 32, op := .write v })) ∧
    (t.len ≠ s.len → ∃ e rest, s.pending = e :: rest ∧
      (e = .reset ∨ (∃ cmd, e = .resetDuring cmd) ∨
       ∃ v, e = .access { offset := 0x008, width := 32, op := .write v } ∨
         e = .access { offset := 0x00C, width := 32, op := .write v }))

/-- PADBUF and PADLEN are written only by a successful PAD or a reset; a write of LEN or a failed PAD leaves them
(10_state.md sections 3 and 5). -/
def Obligations.WritersOfPadding : Prop :=
  ∀ s t : State, step s = .next t → t.padbuf ≠ s.padbuf ∨ t.padlen ≠ s.padlen →
    ∃ e rest, s.pending = e :: rest ∧
      (e = .reset ∨ (∃ cmd, e = .resetDuring cmd) ∨
       ∃ cmd, e = .access { offset := 0x000, width := 32, op := .write cmd } ∧
         (cmd = 0x605 ∨ cmd = 0x615 ∨ cmd = 0x705 ∨ cmd = 0x715))

/-! ## Digests and messages -/

/-- Reconstruction of a chaining state inverts the digest, in both directions, and exists for no other length (41_md4.md
section 2 and 42_sha1.md section 2, the rules on IV reconstruction). -/
def Obligations.DigestReconstruction : Prop :=
  (∀ h : Vector Word 4, (md4Digest h).length = 16 ∧ parseMd4 (md4Digest h) = some h) ∧
  (∀ h : Vector Word 5, (sha1Digest h).length = 20 ∧ parseSha1 (sha1Digest h) = some h) ∧
  (∀ D : List Byte, (D.length ≠ 16 ∧ parseMd4 D = none) ∨ ∃ h, parseMd4 D = some h ∧ md4Digest h = D) ∧
  (∀ D : List Byte, (D.length ≠ 20 ∧ parseSha1 D = none) ∨ ∃ h, parseSha1 D = some h ∧ sha1Digest h = D)

/-- The padded stream is a whole number of blocks if and only if the message's length and the total logical length agree
modulo 64, and exactly then (for `L < 2^64`) the message-level functions have a value (43_message_level.md section 1). -/
def Obligations.PaddedStreamAlignment : Prop :=
  ∀ (e : Endian) (M : List Byte) (L : Nat),
    ((paddedStream e M L).length % 64 = 0 ↔ M.length % 64 = L % 64) ∧
    (L < 2 ^ 64 → ∀ (iv : Vector Word 4) (iv' : Vector Word 5),
      ((md4HashCore M L iv).isSome = true ↔ M.length % 64 = L % 64) ∧
      ((sha1HashCore M L iv').isSome = true ↔ M.length % 64 = L % 64))

/-- Chaining: a message whose first part is a whole number of blocks is hashed by resuming from the fold over that part
(43_message_level.md section 3). -/
def Obligations.HashChaining : Prop :=
  ∀ (M₁ M₂ : List Byte) (L : Nat), M₁.length % 64 = 0 → M₂.length % 64 = L % 64 → L < 2 ^ 64 →
    (∀ iv : Vector Word 4, (md4HashCore (M₁ ++ M₂) L iv).isSome = true ∧
      md4HashCore (M₁ ++ M₂) L iv = md4HashCore M₂ L (foldBlocks md4Block iv M₁)) ∧
    (∀ iv : Vector Word 5, (sha1HashCore (M₁ ++ M₂) L iv).isSome = true ∧
      sha1HashCore (M₁ ++ M₂) L iv = sha1HashCore M₂ L (foldBlocks sha1Block iv M₁))

/-- The length-extension identity (43_message_level.md section 3): the hash of `key ‖ message ‖ glue ‖ suffix` is the
suffix hashed from the state that the hash of `key ‖ message` stands for, for lengths the core can express. -/
def Obligations.LengthExtensionIdentity : Prop :=
  ∀ (K m s : List Byte),
    (let g := pad (K.length + m.length) 64 .little
     let T := K.length + m.length + g.length + s.length
     T < 2 ^ 64 → ∃ D h, md4HashDefault (K ++ m) = some D ∧ parseMd4 D = some h ∧
       (md4HashDefault (K ++ m ++ g ++ s)).isSome = true ∧
       md4HashDefault (K ++ m ++ g ++ s) = md4HashCore s T h) ∧
    (let g := pad (K.length + m.length) 64 .big
     let T := K.length + m.length + g.length + s.length
     T < 2 ^ 64 → ∃ D h, sha1HashDefault (K ++ m) = some D ∧ parseSha1 D = some h ∧
       (sha1HashDefault (K ++ m ++ g ++ s)).isSome = true ∧
       sha1HashDefault (K ++ m ++ g ++ s) = sha1HashCore s T h)

/-- The search over key lengths finds one whenever the real key's length lies in the range, and not a longer one
(43_message_level.md section 3, host software; log 15). -/
def Obligations.KeyLengthSearchSucceeds : Prop :=
  ∀ (A : HashAlgorithm), A = md4Algorithm ∨ A = sha1Algorithm →
    ∀ (key message suffix mac : List Byte) (lo hi : Nat),
      lo ≤ key.length → key.length ≤ hi → A.hashDefault (key ++ message) = some mac →
      key.length + message.length + (glue A message key.length).length + suffix.length < 2 ^ 64 →
      ∃ g, searchKeyLength A (fun bytes => A.hashDefault (key ++ bytes)) mac message suffix lo hi = some g ∧
        lo ≤ g ∧ g ≤ key.length

/-- The sixteen writes of `blk B` put the 64 bytes of `B` into BLK and change nothing else of the core (30_encoding.md
section 5). The events and the recorded responses are the model's (log 1). -/
def Obligations.SixteenWritesFillBlk : Prop :=
  ∀ (s : State) (B : List Byte) (rest : List HostEvent), B.length = 64 → s.pending = program [.blk B] ++ rest →
    ∃ b : Vector Byte 64, b.toList = B ∧
      core.run 16 s =
        .next { s with blk := b, pending := rest, responses := s.responses ++ List.replicate 16 .written }

/-- The host sequence for MD4 computes `md4_hash_core` (43_message_level.md section 2): from every state, for every
message, length and initial vector in the function's domain, the sequence runs to its end; H4 holds the final chaining
state, the four words read from MD4_DIGEST are the digest's bytes, H5 is untouched and no error is reported. That the host
places the padding it computes itself (log 10) and the form of events and responses (log 1) are the model's choice. -/
def Obligations.Md4SequenceComputesHashCore : Prop :=
  ∀ (M : List Byte) (L : Nat) (iv : Vector Word 4) (s : State) (rest : List HostEvent),
    L < 2 ^ 64 → M.length % 64 = L % 64 → s.pending = program (md4Sequence M L iv) ++ rest →
    ∃ (t : State) (D : List Byte) (w₀ w₁ w₂ w₃ : Word) (n : Nat),
      md4HashCore M L iv = some D ∧
      core.run (program (md4Sequence M L iv)).length s = .next t ∧
      t.pending = rest ∧
      t.responses = s.responses ++ List.replicate n .written ++ [.data w₀, .data w₁, .data w₂, .data w₃] ∧
      leBytes32 w₀ ++ leBytes32 w₁ ++ leBytes32 w₂ ++ leBytes32 w₃ = D ∧
      t.h4 = foldBlocks md4Block iv (M ++ pad L 64 .little) ∧ t.h5 = s.h5 ∧ t.len.toNat = L ∧
      t.lastErr = 0 ∧ t.sticky = s.sticky

/-- The host sequence for SHA-1 computes `sha1_hash_core` (43_message_level.md section 2): from every state, for every
message, length and initial vector in the function's domain, the sequence runs to its end; H5 holds the final chaining
state, the five words read from SHA1_DIGEST are the digest's bytes, H4 is untouched and no error is reported. That the host
places the padding it computes itself (log 10) and the form of events and responses (log 1) are the model's choice. -/
def Obligations.Sha1SequenceComputesHashCore : Prop :=
  ∀ (M : List Byte) (L : Nat) (iv : Vector Word 5) (s : State) (rest : List HostEvent),
    L < 2 ^ 64 → M.length % 64 = L % 64 → s.pending = program (sha1Sequence M L iv) ++ rest →
    ∃ (t : State) (D : List Byte) (w₀ w₁ w₂ w₃ w₄ : Word) (n : Nat),
      sha1HashCore M L iv = some D ∧
      core.run (program (sha1Sequence M L iv)).length s = .next t ∧
      t.pending = rest ∧
      t.responses =
        s.responses ++ List.replicate n .written ++ [.data w₀, .data w₁, .data w₂, .data w₃, .data w₄] ∧
      leBytes32 w₀ ++ leBytes32 w₁ ++ leBytes32 w₂ ++ leBytes32 w₃ ++ leBytes32 w₄ = D ∧
      t.h5 = foldBlocks sha1Block iv (M ++ pad L 64 .big) ∧ t.h4 = s.h4 ∧ t.len.toNat = L ∧
      t.lastErr = 0 ∧ t.sticky = s.sticky
end

