-- ==== Sys2Proof/Laws/Compression.lean ====
section
/-! SUPPORT. The recursions inside the two compressions: one more step of the rounds, one more word of the schedule. -/

namespace Sys2Proof.Machine

@[simp] theorem md4Words_length (B : List Byte) : (md4Words B).length = 16 := by simp [md4Words]

@[simp] theorem md4Rounds_zero (X : List Word) (w : Md4Work) : md4Rounds X w 0 = w := rfl

theorem md4Rounds_succ (X : List Word) (w : Md4Work) (n : Nat) :
    md4Rounds X w (n + 1) = md4Step X (md4Rounds X w n) n := by
  simp [md4Rounds, List.range_succ]

@[simp] theorem md4RoundsRotating_zero (X : List Word) (w : Md4Work) : md4RoundsRotating X w 0 = w := rfl

theorem md4RoundsRotating_succ (X : List Word) (w : Md4Work) (n : Nat) :
    md4RoundsRotating X w (n + 1) = md4StepRotating X (md4RoundsRotating X w n) n := by
  simp [md4RoundsRotating, List.range_succ]

@[simp] theorem sha1Words_length (B : List Byte) : (sha1Words B).length = 16 := by simp [sha1Words]

theorem sha1ScheduleUpTo_length (B : List Byte) (n : Nat) : (sha1ScheduleUpTo B n).length = 16 + n := by
  induction n with
  | zero => simp [sha1ScheduleUpTo]
  | succ n ih => simp [sha1ScheduleUpTo, sha1Extend, ih]; omega

@[simp] theorem sha1Schedule_length (B : List Byte) : (sha1Schedule B).length = 80 := sha1ScheduleUpTo_length B 64

/-- Extending the schedule leaves the words it already has. -/
theorem sha1ScheduleUpTo_getD_of_le (B : List Byte) {m n i : Nat} (hmn : m ≤ n) (hi : i < 16 + m) :
    (sha1ScheduleUpTo B n).getD i 0 = (sha1ScheduleUpTo B m).getD i 0 := by
  induction n, hmn using Nat.le_induction with
  | base => rfl
  | succ n hmn ih =>
    rw [← ih]
    have : i < (sha1ScheduleUpTo B n).length := by rw [sha1ScheduleUpTo_length]; omega
    simp [sha1ScheduleUpTo, sha1Extend, List.getD_eq_getElem?_getD, List.getElem?_append_left this]

@[simp] theorem sha1Rounds_zero (W : List Word) (w : Sha1Work) : sha1Rounds W w 0 = w := rfl

theorem sha1Rounds_succ (W : List Word) (w : Sha1Work) (n : Nat) :
    sha1Rounds W w (n + 1) = sha1Step W (sha1Rounds W w n) n := by
  simp [sha1Rounds, List.range_succ]

end Sys2Proof.Machine
end

