-- ==== Sys2Proof/Laws/Message.lean ====
section
/-! SUPPORT. Streams of blocks and the expansion of host programs: how they split. -/

namespace Sys2Proof.Machine

@[simp] theorem foldBlocks_nil {σ : Type} (f : σ → List Byte → σ) (h : σ) : foldBlocks f h [] = h := rfl

/-- The first block of a stream that begins with a whole block. -/
theorem blockAt_zero_append {B S : List Byte} (h : B.length = 64) : blockAt (B ++ S) 0 = B := by
  simp [blockAt, ← h]

/-- The later blocks of a stream that begins with a whole block are those of the rest. -/
theorem blockAt_succ_append {B S : List Byte} (h : B.length = 64) (n : Nat) :
    blockAt (B ++ S) (n + 1) = blockAt S n := by
  have e : 64 * (n + 1) = B.length + 64 * n := by omega
  rw [blockAt, blockAt, e, List.drop_length_add_append]

/-- The fold over a stream that begins with a whole block. -/
theorem foldBlocks_append_block {σ : Type} (f : σ → List Byte → σ) (h : σ) {B S : List Byte} (hB : B.length = 64) :
    foldBlocks f h (B ++ S) = foldBlocks f (f h B) S := by
  have e : (B ++ S).length / 64 = S.length / 64 + 1 := by rw [List.length_append, hB]; omega
  rw [foldBlocks, foldBlocks, e, List.range_succ_eq_map]
  simp only [List.foldl_cons, List.foldl_map, blockAt_zero_append hB, blockAt_succ_append hB]

@[simp] theorem program_nil : program [] = [] := rfl

theorem program_append (p q : List HostOp) : program (p ++ q) = program p ++ program q := by simp [program]

theorem program_cons (o : HostOp) (p : List HostOp) :
    program (o :: p) = o.expand.map HostEvent.access ++ program p := by simp [program]

end Sys2Proof.Machine
end

