-- ==== Sys2Proof/Laws/Operands.lean ====
section
/-! SUPPORT. Laws of the byte-order conversions, of the halves of LEN and of a store through the byte lanes. -/

namespace Sys2Proof.Machine

theorem rotl_eq_rotateLeft (x : Word) {s : Nat} (h : s < 32) : rotl x s = x.rotateLeft s := by
  rw [BitVec.rotateLeft_def, Nat.mod_eq_of_lt h]; rfl

@[simp] theorem leBytes32_length (w : Word) : (leBytes32 w).length = 4 := rfl
@[simp] theorem beBytes32_length (w : Word) : (beBytes32 w).length = 4 := rfl
@[simp] theorem leBytes64_length (v : DWord) : (leBytes64 v).length = 8 := by simp [leBytes64]
@[simp] theorem beBytes64_length (v : DWord) : (beBytes64 v).length = 8 := by simp [beBytes64]

/-- Big-endian bytes are little-endian bytes in the other order. -/
theorem beBytes64_eq_reverse (v : DWord) : beBytes64 v = (leBytes64 v).reverse := rfl

theorem beBytes32_eq_reverse (v : Word) : beBytes32 v = (leBytes32 v).reverse := rfl

/-- The word made of a word's four bytes, lowest first, is the word. -/
theorem join_bytes32 (w : Word) :
    (w.extractLsb' 0 8).setWidth 32 ||| ((w.extractLsb' 8 8).setWidth 32 <<< 8) |||
      ((w.extractLsb' 16 8).setWidth 32 <<< 16) ||| ((w.extractLsb' 24 8).setWidth 32 <<< 24) = w := by
  apply BitVec.eq_of_getLsbD_eq
  intro i hi
  simp only [BitVec.getLsbD_or, BitVec.getLsbD_shiftLeft, BitVec.getLsbD_setWidth, BitVec.getLsbD_extractLsb']
  interval_cases i <;> simp

@[simp] theorem le32_leBytes32 (w : Word) : le32 (leBytes32 w) 0 = w := join_bytes32 w

@[simp] theorem be32_beBytes32 (w : Word) : be32 (beBytes32 w) 0 = w := by
  refine Eq.trans ?_ (join_bytes32 w)
  simp only [be32, beBytes32, byteAt, List.getD_cons_zero, List.getD_cons_succ]
  generalize (w.extractLsb' 0 8).setWidth 32 = a
  generalize (w.extractLsb' 8 8).setWidth 32 <<< 8 = b
  generalize (w.extractLsb' 16 8).setWidth 32 <<< 16 = c
  generalize (w.extractLsb' 24 8).setWidth 32 <<< 24 = d
  ac_rfl

@[simp] theorem lenLo_lenOfHalves (hi lo : Word) : lenLo (lenOfHalves hi lo) = lo := by
  apply BitVec.eq_of_getLsbD_eq
  intro i h
  simp only [lenLo, lenOfHalves, BitVec.getLsbD_extractLsb', BitVec.getLsbD_append]
  simp [h]

@[simp] theorem lenHi_lenOfHalves (hi lo : Word) : lenHi (lenOfHalves hi lo) = hi := by
  apply BitVec.eq_of_getLsbD_eq
  intro i h
  simp only [lenHi, lenOfHalves, BitVec.getLsbD_extractLsb', BitVec.getLsbD_append]
  simp [h]

@[simp] theorem lenOfHalves_halves (l : DWord) : lenOfHalves (lenHi l) (lenLo l) = l := by
  apply BitVec.eq_of_getLsbD_eq
  intro i h
  simp only [lenOfHalves, lenHi, lenLo, BitVec.getLsbD_append, BitVec.getLsbD_extractLsb']
  by_cases hi : i < 32
  · simp [hi]
  · simp [hi, show 32 + (i - 32) = i by omega, show i - 32 < 32 by omega]

/-- A store writes the four bytes of its word and no other byte. -/
theorem getElem?_storeLanes {n : Nat} (b : Vector Byte n) (i m : Nat) (v : Word) (h : i + 3 < n) :
    (storeLanes b i v)[m]? =
      if i ≤ m ∧ m < i + 4 then some (v.extractLsb' (8 * (m - i)) 8) else b[m]? := by
  unfold storeLanes
  simp only [Vector.getElem?_setIfInBounds]
  by_cases h3 : i + 3 = m
  · subst h3; simp [h]
  by_cases h2 : i + 2 = m
  · subst h2; simp [show i + 2 < n by omega]
  by_cases h1 : i + 1 = m
  · subst h1; simp [show i + 1 < n by omega]
  by_cases h0 : i = m
  · subst h0; simp [show i < n by omega]
  simp [h3, h2, h1, h0, show ¬(i ≤ m ∧ m < i + 4) by omega]

end Sys2Proof.Machine
end

