-- ==== Sys2Proof/Laws/State.lean ====
section
/-! SUPPORT. The small lemmas of State: what each write of one piece of state leaves in each field, and the reset value of
each field. With them no proof unfolds a record update. -/

namespace Sys2Proof.Machine

/-! ### setH4 -/

@[simp] theorem State.setH4_h4 (s : State) (h : Vector Word 4) : (s.setH4 h).h4 = h := rfl
@[simp] theorem State.setH4_h5 (s : State) (h : Vector Word 4) : (s.setH4 h).h5 = s.h5 := rfl
@[simp] theorem State.setH4_blk (s : State) (h : Vector Word 4) : (s.setH4 h).blk = s.blk := rfl
@[simp] theorem State.setH4_len (s : State) (h : Vector Word 4) : (s.setH4 h).len = s.len := rfl
@[simp] theorem State.setH4_padbuf (s : State) (h : Vector Word 4) : (s.setH4 h).padbuf = s.padbuf := rfl
@[simp] theorem State.setH4_padlen (s : State) (h : Vector Word 4) : (s.setH4 h).padlen = s.padlen := rfl
@[simp] theorem State.setH4_lastErr (s : State) (h : Vector Word 4) : (s.setH4 h).lastErr = s.lastErr := rfl
@[simp] theorem State.setH4_sticky (s : State) (h : Vector Word 4) : (s.setH4 h).sticky = s.sticky := rfl
@[simp] theorem State.setH4_pending (s : State) (h : Vector Word 4) : (s.setH4 h).pending = s.pending := rfl
@[simp] theorem State.setH4_responses (s : State) (h : Vector Word 4) : (s.setH4 h).responses = s.responses := rfl

/-! ### setH5 -/

@[simp] theorem State.setH5_h4 (s : State) (h : Vector Word 5) : (s.setH5 h).h4 = s.h4 := rfl
@[simp] theorem State.setH5_h5 (s : State) (h : Vector Word 5) : (s.setH5 h).h5 = h := rfl
@[simp] theorem State.setH5_blk (s : State) (h : Vector Word 5) : (s.setH5 h).blk = s.blk := rfl
@[simp] theorem State.setH5_len (s : State) (h : Vector Word 5) : (s.setH5 h).len = s.len := rfl
@[simp] theorem State.setH5_padbuf (s : State) (h : Vector Word 5) : (s.setH5 h).padbuf = s.padbuf := rfl
@[simp] theorem State.setH5_padlen (s : State) (h : Vector Word 5) : (s.setH5 h).padlen = s.padlen := rfl
@[simp] theorem State.setH5_lastErr (s : State) (h : Vector Word 5) : (s.setH5 h).lastErr = s.lastErr := rfl
@[simp] theorem State.setH5_sticky (s : State) (h : Vector Word 5) : (s.setH5 h).sticky = s.sticky := rfl
@[simp] theorem State.setH5_pending (s : State) (h : Vector Word 5) : (s.setH5 h).pending = s.pending := rfl
@[simp] theorem State.setH5_responses (s : State) (h : Vector Word 5) : (s.setH5 h).responses = s.responses := rfl

/-! ### setBlk -/

@[simp] theorem State.setBlk_h4 (s : State) (b : Vector Byte 64) : (s.setBlk b).h4 = s.h4 := rfl
@[simp] theorem State.setBlk_h5 (s : State) (b : Vector Byte 64) : (s.setBlk b).h5 = s.h5 := rfl
@[simp] theorem State.setBlk_blk (s : State) (b : Vector Byte 64) : (s.setBlk b).blk = b := rfl
@[simp] theorem State.setBlk_len (s : State) (b : Vector Byte 64) : (s.setBlk b).len = s.len := rfl
@[simp] theorem State.setBlk_padbuf (s : State) (b : Vector Byte 64) : (s.setBlk b).padbuf = s.padbuf := rfl
@[simp] theorem State.setBlk_padlen (s : State) (b : Vector Byte 64) : (s.setBlk b).padlen = s.padlen := rfl
@[simp] theorem State.setBlk_lastErr (s : State) (b : Vector Byte 64) : (s.setBlk b).lastErr = s.lastErr := rfl
@[simp] theorem State.setBlk_sticky (s : State) (b : Vector Byte 64) : (s.setBlk b).sticky = s.sticky := rfl
@[simp] theorem State.setBlk_pending (s : State) (b : Vector Byte 64) : (s.setBlk b).pending = s.pending := rfl
@[simp] theorem State.setBlk_responses (s : State) (b : Vector Byte 64) : (s.setBlk b).responses = s.responses := rfl

/-! ### setLen -/

@[simp] theorem State.setLen_h4 (s : State) (l : DWord) : (s.setLen l).h4 = s.h4 := rfl
@[simp] theorem State.setLen_h5 (s : State) (l : DWord) : (s.setLen l).h5 = s.h5 := rfl
@[simp] theorem State.setLen_blk (s : State) (l : DWord) : (s.setLen l).blk = s.blk := rfl
@[simp] theorem State.setLen_len (s : State) (l : DWord) : (s.setLen l).len = l := rfl
@[simp] theorem State.setLen_padbuf (s : State) (l : DWord) : (s.setLen l).padbuf = s.padbuf := rfl
@[simp] theorem State.setLen_padlen (s : State) (l : DWord) : (s.setLen l).padlen = s.padlen := rfl
@[simp] theorem State.setLen_lastErr (s : State) (l : DWord) : (s.setLen l).lastErr = s.lastErr := rfl
@[simp] theorem State.setLen_sticky (s : State) (l : DWord) : (s.setLen l).sticky = s.sticky := rfl
@[simp] theorem State.setLen_pending (s : State) (l : DWord) : (s.setLen l).pending = s.pending := rfl
@[simp] theorem State.setLen_responses (s : State) (l : DWord) : (s.setLen l).responses = s.responses := rfl

/-! ### setPadding -/

@[simp] theorem State.setPadding_h4 (s : State) (b : Vector Byte 136) (n : Byte) : (s.setPadding b n).h4 = s.h4 := rfl
@[simp] theorem State.setPadding_h5 (s : State) (b : Vector Byte 136) (n : Byte) : (s.setPadding b n).h5 = s.h5 := rfl
@[simp] theorem State.setPadding_blk (s : State) (b : Vector Byte 136) (n : Byte) : (s.setPadding b n).blk = s.blk := rfl
@[simp] theorem State.setPadding_len (s : State) (b : Vector Byte 136) (n : Byte) : (s.setPadding b n).len = s.len := rfl
@[simp] theorem State.setPadding_padbuf (s : State) (b : Vector Byte 136) (n : Byte) : (s.setPadding b n).padbuf = b := rfl
@[simp] theorem State.setPadding_padlen (s : State) (b : Vector Byte 136) (n : Byte) : (s.setPadding b n).padlen = n := rfl
@[simp] theorem State.setPadding_lastErr (s : State) (b : Vector Byte 136) (n : Byte) : (s.setPadding b n).lastErr = s.lastErr := rfl
@[simp] theorem State.setPadding_sticky (s : State) (b : Vector Byte 136) (n : Byte) : (s.setPadding b n).sticky = s.sticky := rfl
@[simp] theorem State.setPadding_pending (s : State) (b : Vector Byte 136) (n : Byte) : (s.setPadding b n).pending = s.pending := rfl
@[simp] theorem State.setPadding_responses (s : State) (b : Vector Byte 136) (n : Byte) : (s.setPadding b n).responses = s.responses := rfl

/-! ### setStatus -/

@[simp] theorem State.setStatus_h4 (s : State) (e : BitVec 4) (k : Bool) : (s.setStatus e k).h4 = s.h4 := rfl
@[simp] theorem State.setStatus_h5 (s : State) (e : BitVec 4) (k : Bool) : (s.setStatus e k).h5 = s.h5 := rfl
@[simp] theorem State.setStatus_blk (s : State) (e : BitVec 4) (k : Bool) : (s.setStatus e k).blk = s.blk := rfl
@[simp] theorem State.setStatus_len (s : State) (e : BitVec 4) (k : Bool) : (s.setStatus e k).len = s.len := rfl
@[simp] theorem State.setStatus_padbuf (s : State) (e : BitVec 4) (k : Bool) : (s.setStatus e k).padbuf = s.padbuf := rfl
@[simp] theorem State.setStatus_padlen (s : State) (e : BitVec 4) (k : Bool) : (s.setStatus e k).padlen = s.padlen := rfl
@[simp] theorem State.setStatus_lastErr (s : State) (e : BitVec 4) (k : Bool) : (s.setStatus e k).lastErr = e := rfl
@[simp] theorem State.setStatus_sticky (s : State) (e : BitVec 4) (k : Bool) : (s.setStatus e k).sticky = k := rfl
@[simp] theorem State.setStatus_pending (s : State) (e : BitVec 4) (k : Bool) : (s.setStatus e k).pending = s.pending := rfl
@[simp] theorem State.setStatus_responses (s : State) (e : BitVec 4) (k : Bool) : (s.setStatus e k).responses = s.responses := rfl

/-! ### setPending -/

@[simp] theorem State.setPending_h4 (s : State) (p : List HostEvent) : (s.setPending p).h4 = s.h4 := rfl
@[simp] theorem State.setPending_h5 (s : State) (p : List HostEvent) : (s.setPending p).h5 = s.h5 := rfl
@[simp] theorem State.setPending_blk (s : State) (p : List HostEvent) : (s.setPending p).blk = s.blk := rfl
@[simp] theorem State.setPending_len (s : State) (p : List HostEvent) : (s.setPending p).len = s.len := rfl
@[simp] theorem State.setPending_padbuf (s : State) (p : List HostEvent) : (s.setPending p).padbuf = s.padbuf := rfl
@[simp] theorem State.setPending_padlen (s : State) (p : List HostEvent) : (s.setPending p).padlen = s.padlen := rfl
@[simp] theorem State.setPending_lastErr (s : State) (p : List HostEvent) : (s.setPending p).lastErr = s.lastErr := rfl
@[simp] theorem State.setPending_sticky (s : State) (p : List HostEvent) : (s.setPending p).sticky = s.sticky := rfl
@[simp] theorem State.setPending_pending (s : State) (p : List HostEvent) : (s.setPending p).pending = p := rfl
@[simp] theorem State.setPending_responses (s : State) (p : List HostEvent) : (s.setPending p).responses = s.responses := rfl

/-! ### respond -/

@[simp] theorem State.respond_h4 (s : State) (r : BusResponse) : (s.respond r).h4 = s.h4 := rfl
@[simp] theorem State.respond_h5 (s : State) (r : BusResponse) : (s.respond r).h5 = s.h5 := rfl
@[simp] theorem State.respond_blk (s : State) (r : BusResponse) : (s.respond r).blk = s.blk := rfl
@[simp] theorem State.respond_len (s : State) (r : BusResponse) : (s.respond r).len = s.len := rfl
@[simp] theorem State.respond_padbuf (s : State) (r : BusResponse) : (s.respond r).padbuf = s.padbuf := rfl
@[simp] theorem State.respond_padlen (s : State) (r : BusResponse) : (s.respond r).padlen = s.padlen := rfl
@[simp] theorem State.respond_lastErr (s : State) (r : BusResponse) : (s.respond r).lastErr = s.lastErr := rfl
@[simp] theorem State.respond_sticky (s : State) (r : BusResponse) : (s.respond r).sticky = s.sticky := rfl
@[simp] theorem State.respond_pending (s : State) (r : BusResponse) : (s.respond r).pending = s.pending := rfl
@[simp] theorem State.respond_responses (s : State) (r : BusResponse) : (s.respond r).responses = s.responses ++ [r] := rfl

/-! ### reset -/

@[simp] theorem State.reset_h4 : State.reset.h4 = Config.iv4 := rfl
@[simp] theorem State.reset_h5 : State.reset.h5 = Config.iv5 := rfl
@[simp] theorem State.reset_blk : State.reset.blk = Vector.replicate 64 0x00 := rfl
@[simp] theorem State.reset_len : State.reset.len = 0 := rfl
@[simp] theorem State.reset_padbuf : State.reset.padbuf = Vector.replicate 136 0x00 := rfl
@[simp] theorem State.reset_padlen : State.reset.padlen = 0 := rfl
@[simp] theorem State.reset_lastErr : State.reset.lastErr = 0 := rfl
@[simp] theorem State.reset_sticky : State.reset.sticky = false := rfl
@[simp] theorem State.reset_pending : State.reset.pending = [] := rfl
@[simp] theorem State.reset_responses : State.reset.responses = [] := rfl

/-- Two states are equal if they agree in every field. -/
theorem State.eq_of_fields {s t : State} (h4 : s.h4 = t.h4) (h5 : s.h5 = t.h5) (hb : s.blk = t.blk) (hl : s.len = t.len)
    (hp : s.padbuf = t.padbuf) (hn : s.padlen = t.padlen) (he : s.lastErr = t.lastErr) (hk : s.sticky = t.sticky)
    (hq : s.pending = t.pending) (hr : s.responses = t.responses) : s = t := by
  cases s; cases t; simp_all

end Sys2Proof.Machine
end

