-- ==== Sys2Proof/Laws/Ops.lean ====
section
/-! SUPPORT. What the shared operations of Machine/Ops.lean do, field by field and region by region. -/

namespace Sys2Proof.Machine

/-! ### succeed -/

@[simp] theorem succeed_h4 (s : State) : (succeed s).h4 = s.h4 := rfl
@[simp] theorem succeed_h5 (s : State) : (succeed s).h5 = s.h5 := rfl
@[simp] theorem succeed_blk (s : State) : (succeed s).blk = s.blk := rfl
@[simp] theorem succeed_len (s : State) : (succeed s).len = s.len := rfl
@[simp] theorem succeed_padbuf (s : State) : (succeed s).padbuf = s.padbuf := rfl
@[simp] theorem succeed_padlen (s : State) : (succeed s).padlen = s.padlen := rfl
@[simp] theorem succeed_lastErr (s : State) : (succeed s).lastErr = 0 := rfl
@[simp] theorem succeed_sticky (s : State) : (succeed s).sticky = s.sticky := by simp [succeed, statusAfter]
@[simp] theorem succeed_pending (s : State) : (succeed s).pending = s.pending := rfl
@[simp] theorem succeed_responses (s : State) : (succeed s).responses = s.responses := rfl

/-! ### fail -/

@[simp] theorem fail_h4 (c : ErrCode) (s : State) : (fail c s).h4 = s.h4 := rfl
@[simp] theorem fail_h5 (c : ErrCode) (s : State) : (fail c s).h5 = s.h5 := rfl
@[simp] theorem fail_blk (c : ErrCode) (s : State) : (fail c s).blk = s.blk := rfl
@[simp] theorem fail_len (c : ErrCode) (s : State) : (fail c s).len = s.len := rfl
@[simp] theorem fail_padbuf (c : ErrCode) (s : State) : (fail c s).padbuf = s.padbuf := rfl
@[simp] theorem fail_padlen (c : ErrCode) (s : State) : (fail c s).padlen = s.padlen := rfl
@[simp] theorem fail_lastErr (c : ErrCode) (s : State) : (fail c s).lastErr = c.value := rfl
@[simp] theorem fail_illegalCmd_sticky (s : State) : (fail .illegalCmd s).sticky = true := by simp [fail, statusAfter]
@[simp] theorem fail_badBlockSize_sticky (s : State) : (fail .badBlockSize s).sticky = true := by simp [fail, statusAfter]
@[simp] theorem fail_pending (c : ErrCode) (s : State) : (fail c s).pending = s.pending := rfl
@[simp] theorem fail_responses (c : ErrCode) (s : State) : (fail c s).responses = s.responses := rfl

/-! ### The same as one update -/

theorem succeed_eq (s : State) : succeed s = { s with lastErr := 0 } := by
  apply State.eq_of_fields <;> simp

theorem fail_illegalCmd_eq (s : State) : fail .illegalCmd s = { s with lastErr := 1, sticky := true } := by
  apply State.eq_of_fields <;> simp [ErrCode.value]

theorem fail_badBlockSize_eq (s : State) : fail .badBlockSize s = { s with lastErr := 2, sticky := true } := by
  apply State.eq_of_fields <;> simp [ErrCode.value]

/-! ### resetCore -/

@[simp] theorem resetCore_h4 (s : State) : (resetCore s).h4 = State.reset.h4 := rfl
@[simp] theorem resetCore_h5 (s : State) : (resetCore s).h5 = State.reset.h5 := rfl
@[simp] theorem resetCore_blk (s : State) : (resetCore s).blk = State.reset.blk := rfl
@[simp] theorem resetCore_len (s : State) : (resetCore s).len = State.reset.len := rfl
@[simp] theorem resetCore_padbuf (s : State) : (resetCore s).padbuf = State.reset.padbuf := rfl
@[simp] theorem resetCore_padlen (s : State) : (resetCore s).padlen = State.reset.padlen := rfl
@[simp] theorem resetCore_lastErr (s : State) : (resetCore s).lastErr = State.reset.lastErr := rfl
@[simp] theorem resetCore_sticky (s : State) : (resetCore s).sticky = State.reset.sticky := rfl
@[simp] theorem resetCore_pending (s : State) : (resetCore s).pending = s.pending := rfl
@[simp] theorem resetCore_responses (s : State) : (resetCore s).responses = s.responses := rfl

/-! ### Window decode and acceptance -/

theorem BusAccess.inWindow_iff (a : BusAccess) : a.inWindow = true ↔ 0 ≤ a.offset ∧ a.offset < 0x200 :=
  decide_eq_true_iff

theorem BusAccess.accepted_iff (a : BusAccess) : a.accepted = true ↔ a.width = 32 ∧ a.offset % 4 = 0 :=
  decide_eq_true_iff

/-! ### The read map reads the core only -/

@[simp] theorem busRead_respond (s : State) (r : BusResponse) (off : Nat) : busRead (s.respond r) off = busRead s off := rfl

@[simp] theorem busRead_setPending (s : State) (p : List HostEvent) (off : Nat) :
    busRead (s.setPending p) off = busRead s off := rfl

/-! ### The write map, region by region -/

@[simp] theorem busStore_lenLo (s : State) (v : Word) :
    busStore s 0x008 v = s.setLen (lenOfHalves (lenHi s.len) v) := rfl

@[simp] theorem busStore_lenHi (s : State) (v : Word) :
    busStore s 0x00C v = s.setLen (lenOfHalves v (lenLo s.len)) := rfl

theorem busStore_h4 (s : State) (v : Word) {i : Nat} (hi : i < 4) :
    busStore s (0x020 + 4 * i) v = s.setH4 (s.h4.setIfInBounds i v) := by
  have e : (0x020 + 4 * i - 0x020) / 4 = i := by omega
  unfold busStore
  rw [if_neg (by omega), if_neg (by omega), if_pos (by omega), e]

theorem busStore_h5 (s : State) (v : Word) {i : Nat} (hi : i < 5) :
    busStore s (0x030 + 4 * i) v = s.setH5 (s.h5.setIfInBounds i v) := by
  have e : (0x030 + 4 * i - 0x030) / 4 = i := by omega
  unfold busStore
  rw [if_neg (by omega), if_neg (by omega), if_neg (by omega), if_pos (by omega), e]

theorem busStore_blk (s : State) (v : Word) {j : Nat} (hj : j < 16) :
    busStore s (0x080 + 4 * j) v = s.setBlk (storeLanes s.blk (4 * j) v) := by
  have e : 0x080 + 4 * j - 0x080 = 4 * j := by omega
  unfold busStore
  rw [if_neg (by omega), if_neg (by omega), if_neg (by omega), if_neg (by omega), if_pos (by omega), e]

/-- Everything a store can do: one of the five writable regions, or nothing. -/
theorem busStore_cases (s : State) (off : Nat) (v : Word) :
    (∃ l, busStore s off v = s.setLen l) ∨
    (0x020 ≤ off ∧ off ≤ 0x02C ∧ ∃ h, busStore s off v = s.setH4 h) ∨
    (0x030 ≤ off ∧ off ≤ 0x040 ∧ ∃ h, busStore s off v = s.setH5 h) ∨
    (0x080 ≤ off ∧ off ≤ 0x0BC ∧ ∃ b, busStore s off v = s.setBlk b) ∨
    busStore s off v = s := by
  unfold busStore
  split
  · exact .inl ⟨_, rfl⟩
  · split
    · exact .inl ⟨_, rfl⟩
    · split
      · next h => exact .inr (.inl ⟨h.1, h.2, _, rfl⟩)
      · split
        · next h => exact .inr (.inr (.inl ⟨h.1, h.2, _, rfl⟩))
        · split
          · next h => exact .inr (.inr (.inr (.inl ⟨h.1, h.2, _, rfl⟩)))
          · exact .inr (.inr (.inr (.inr rfl)))

/-! ### The same core -/

theorem State.SameCore.refl (s : State) : s.SameCore s := by simp [State.SameCore]

theorem State.SameCore.trans {s t u : State} (h : s.SameCore t) (k : t.SameCore u) : s.SameCore u := by
  simp_all [State.SameCore]

theorem respond_sameCore (s : State) (r : BusResponse) : s.SameCore (s.respond r) := by simp [State.SameCore]

theorem setPending_sameCore (s : State) (p : List HostEvent) : s.SameCore (s.setPending p) := by simp [State.SameCore]

theorem busRead_of_sameCore {s t : State} (h : s.SameCore t) (off : Nat) : busRead t off = busRead s off := by
  obtain ⟨h4, h5, hb, hl, hp, hn, he, hk⟩ := h
  simp [busRead, h4, h5, hb, hl, hp, hn, he, hk]

end Sys2Proof.Machine
end

