-- ==== Sys2Proof/Laws/Padding.lean ====
section
/-! SUPPORT. The padding's parts: the lengths of the field and of the whole, the bound on the filler, and the bytes of
PADBUF. -/

namespace Sys2Proof.Machine

@[simp] theorem lengthField_length (L : Nat) (e : Endian) : (lengthField L e).length = 8 := by
  cases e <;> simp [lengthField]

theorem pad_length (L bs : Nat) (e : Endian) : (pad L bs e).length = zerosToPad L bs + 9 := by
  simp [pad]

theorem zerosToPad_lt (L : Nat) {bs : Nat} (h : 0 < bs) : zerosToPad L bs < bs := by
  unfold zerosToPad; split <;> omega

theorem padBuffer_getElem? (P : List Byte) {i : Nat} (h : i < 136) : (padBuffer P)[i]? = some (byteAt P i) := by
  simp [padBuffer, h]

theorem byteAt_of_length_le {P : List Byte} {i : Nat} (h : P.length ≤ i) : byteAt P i = 0x00 := by
  simp [byteAt, List.getD_eq_getElem?_getD, List.getElem?_eq_none h]

/-! ### writePadding -/

@[simp] theorem writePadding_h4 (e : Endian) (bs : Nat) (s : State) : (writePadding e bs s).h4 = s.h4 := by simp [writePadding]
@[simp] theorem writePadding_h5 (e : Endian) (bs : Nat) (s : State) : (writePadding e bs s).h5 = s.h5 := by simp [writePadding]
@[simp] theorem writePadding_blk (e : Endian) (bs : Nat) (s : State) : (writePadding e bs s).blk = s.blk := by simp [writePadding]
@[simp] theorem writePadding_len (e : Endian) (bs : Nat) (s : State) : (writePadding e bs s).len = s.len := by simp [writePadding]
@[simp] theorem writePadding_lastErr (e : Endian) (bs : Nat) (s : State) : (writePadding e bs s).lastErr = s.lastErr := by simp [writePadding]
@[simp] theorem writePadding_sticky (e : Endian) (bs : Nat) (s : State) : (writePadding e bs s).sticky = s.sticky := by simp [writePadding]
@[simp] theorem writePadding_pending (e : Endian) (bs : Nat) (s : State) : (writePadding e bs s).pending = s.pending := by simp [writePadding]
@[simp] theorem writePadding_responses (e : Endian) (bs : Nat) (s : State) : (writePadding e bs s).responses = s.responses := by simp [writePadding]
@[simp] theorem writePadding_padbuf (e : Endian) (bs : Nat) (s : State) :
    (writePadding e bs s).padbuf = padBuffer (pad s.len.toNat bs e) := by simp [writePadding]
@[simp] theorem writePadding_padlen (e : Endian) (bs : Nat) (s : State) :
    (writePadding e bs s).padlen = BitVec.ofNat 8 (pad s.len.toNat bs e).length := by simp [writePadding]

/-! ### PAD -/

/-- The two outcomes of PAD. -/
theorem execPad_eq (e : Endian) (bslog : Nat) (s : State) :
    execPad e bslog s = .next (if bslog = 6 ∨ bslog = 7 then succeed (writePadding e (blockSize bslog) s)
      else fail .badBlockSize s) := by
  by_cases h : bslog = 6 ∨ bslog = 7 <;> simp [execPad, blockSizeSupported, h]

end Sys2Proof.Machine
end

