-- ==== Sys2Proof/Laws/PerInstr.lean ====
section
/-! SUPPORT. Statements made for every instruction, one lemma per constructor. -/

namespace Sys2Proof.Laws.CommandWord

/-- The command word of a well-formed instruction has its opcode in bits [3:0] and every reserved bit 0 (30_encoding.md
R64, R65, R68). -/
def Statement (i : Instr) : Prop :=
  i.wellFormed = true → cmdOp (encode i) = i.opcode ∧ cmdRsv0 (encode i) = 0 ∧ cmdRsv1 (encode i) = 0

theorem md4Init : Statement .md4Init := fun _ => by decide
theorem md4Compress : Statement .md4Compress := fun _ => by decide
theorem sha1Init : Statement .sha1Init := fun _ => by decide
theorem sha1Compress : Statement .sha1Compress := fun _ => by decide

theorem pad (endian : Endian) (bslog : Nat) : Statement (.pad endian bslog) := by
  intro h
  have hb : bslog < 16 := by simpa [Instr.wellFormed] using h
  cases endian <;> interval_cases bslog <;> decide

end Sys2Proof.Laws.CommandWord
end

