-- ==== Sys2Proof/Laws/Step.lean ====
section
/-! SUPPORT. What one command and one step can do, said once: every later proof about a step cites these. -/

namespace Sys2Proof.Machine

/-- Everything a command can do to the state: one equation per command (30_encoding.md R70). -/
theorem exec_cases (i : Instr) (s : State) :
    (i = .md4Init ∧ exec i s = .next (succeed (s.setH4 Config.iv4))) ∨
    (i = .md4Compress ∧ exec i s = .next (succeed (s.setH4 (md4Block s.h4 s.blk.toList)))) ∨
    (i = .sha1Init ∧ exec i s = .next (succeed (s.setH5 Config.iv5))) ∨
    (i = .sha1Compress ∧ exec i s = .next (succeed (s.setH5 (sha1Block s.h5 s.blk.toList)))) ∨
    (∃ e b, i = .pad e b ∧ (b = 6 ∨ b = 7) ∧ exec i s = .next (succeed (writePadding e (blockSize b) s))) ∨
    (∃ e b, i = .pad e b ∧ ¬(b = 6 ∨ b = 7) ∧ exec i s = .next (fail .badBlockSize s)) := by
  cases i with
  | md4Init => exact .inl ⟨rfl, rfl⟩
  | md4Compress => exact .inr (.inl ⟨rfl, rfl⟩)
  | sha1Init => exact .inr (.inr (.inl ⟨rfl, rfl⟩))
  | sha1Compress => exact .inr (.inr (.inr (.inl ⟨rfl, rfl⟩)))
  | pad e b =>
    by_cases h : b = 6 ∨ b = 7
    · exact .inr (.inr (.inr (.inr (.inl ⟨e, b, rfl, h, by simp [exec, execPad_eq, h]⟩))))
    · exact .inr (.inr (.inr (.inr (.inr ⟨e, b, rfl, h, by simp [exec, execPad_eq, h]⟩))))

/-- A word the decoder rejects fails with ILLEGAL_CMD. -/
theorem execute_of_error {cmd : Word} {e : DecodeError} (h : decode cmd = .error e) (s : State) :
    execute cmd s = .next (fail .illegalCmd s) := by simp [execute, h]

theorem execute_of_ok {cmd : Word} {i : Instr} (h : decode cmd = .ok i) (s : State) : execute cmd s = exec i s := by
  simp [execute, h]

/-! ### The step by the event at its head -/

theorem step_of_idle {s : State} (h : s.pending = []) : step s = .next s := by simp [step, h]

theorem step_of_event {s : State} {e : HostEvent} {rest : List HostEvent} (h : s.pending = e :: rest) :
    step s = hostEvent e (s.setPending rest) := by simp [step, h]

theorem hostAccess_outside {a : BusAccess} (h : a.inWindow = false) (s : State) :
    hostAccess a s = .refused (.outsideWindow a.offset) := by simp [hostAccess, h]

theorem hostAccess_refused {a : BusAccess} (hw : a.inWindow = true) (h : a.accepted = false) (s : State) :
    hostAccess a s = .next (s.respond .busError) := by simp [hostAccess, hw, h]

theorem hostAccess_accepted {a : BusAccess} (hw : a.inWindow = true) (h : a.accepted = true) (s : State) :
    hostAccess a s = acceptedAccess a s := by simp [hostAccess, hw, h]

/-- Everything a step that answers a next state can have done. -/
theorem step_cases {s t : State} (h : step s = .next t) :
    (s.pending = [] ∧ t = s) ∨
    ∃ e rest, s.pending = e :: rest ∧
      ((e = .reset ∧ t = resetCore (s.setPending rest)) ∨
       (∃ cmd, e = .resetDuring cmd ∧ t = resetCore ((s.setPending rest).respond .abandoned)) ∨
       (∃ a, e = .access a ∧ a.inWindow = true ∧
         ((a.accepted = false ∧ t = (s.setPending rest).respond .busError) ∨
          (a.accepted = true ∧ a.op = .read ∧
            t = (s.setPending rest).respond (.data (busRead s a.offset.toNat))) ∨
          (∃ v, a.accepted = true ∧ a.op = .write v ∧ a.offset.toNat ≠ 0 ∧
            t = busStore ((s.setPending rest).respond .written) a.offset.toNat v) ∨
          (∃ v, a.accepted = true ∧ a.op = .write v ∧ a.offset.toNat = 0 ∧
            execute v ((s.setPending rest).respond .written) = .next t)))) := by
  cases hp : s.pending with
  | nil => rw [step_of_idle hp] at h; cases h; exact .inl ⟨rfl, rfl⟩
  | cons e rest =>
    rw [step_of_event hp] at h
    refine .inr ⟨e, rest, rfl, ?_⟩
    cases e with
    | reset => cases h; exact .inl ⟨rfl, rfl⟩
    | resetDuring cmd => cases h; exact .inr (.inl ⟨cmd, rfl, rfl⟩)
    | access a =>
      refine .inr (.inr ⟨a, rfl, ?_⟩)
      change hostAccess a _ = _ at h
      cases hw : a.inWindow with
      | false => rw [hostAccess_outside hw] at h; cases h
      | true =>
        refine ⟨rfl, ?_⟩
        cases ha : a.accepted with
        | false => rw [hostAccess_refused hw ha] at h; cases h; exact .inl ⟨rfl, rfl⟩
        | true =>
          rw [hostAccess_accepted hw ha] at h
          unfold acceptedAccess at h
          cases ho : a.op with
          | read => rw [ho] at h; cases h; exact .inr (.inl ⟨rfl, rfl, rfl⟩)
          | write v =>
            rw [ho] at h
            by_cases h0 : a.offset.toNat = 0
            · exact .inr (.inr (.inr ⟨v, rfl, rfl, h0, by simpa [busWrite, h0] using h⟩))
            · refine .inr (.inr (.inl ⟨v, rfl, rfl, h0, ?_⟩))
              simpa [busWrite, h0] using h.symm

/-! ### Runs -/

theorem run_zero (s : State) : core.run 0 s = .next s := rfl

theorem run_succ (n : Nat) {s t : State} (h : step s = .next t) : core.run (n + 1) s = core.run n t := by
  have hs : core.step s = .next t := h
  simp only [Host.Core.run, hs]

/-- A run that answers a next state answered one at its first step. -/
theorem run_succ_next {n : Nat} {s u : State} (h : core.run (n + 1) s = .next u) :
    ∃ t, step s = .next t ∧ core.run n t = .next u := by
  cases hs : step s with
  | next t => exact ⟨t, rfl, by rw [← run_succ n hs]; exact h⟩
  | fault r => cases r
  | refused r =>
    have hs' : core.step s = .refused r := hs
    simp only [Host.Core.run, hs'] at h
    cases h

/-- A run cut in two. -/
theorem run_add {m n : Nat} {s t : State} (h : core.run m s = .next t) : core.run (m + n) s = core.run n t := by
  induction m generalizing s with
  | zero => cases h; rw [Nat.zero_add]
  | succ m ih =>
    obtain ⟨u, hs, hu⟩ := run_succ_next h
    rw [show m + 1 + n = m + n + 1 by omega, run_succ _ hs]
    exact ih hu

end Sys2Proof.Machine
end

