-- ==== Sys2Proof/Tests/Slice0.lean ====
section
/-! SUPPORT. Tests of the model on values of the spec's own tables and examples (V-… are rows of 95_test_vectors.md), and,
for every statement with hypotheses, a witness that meets them. -/

namespace Sys2Proof.Tests

open Sys2Proof.Machine

-- One theorem at a time: proofs elaborated side by side need more threads than the check's memory limit allows.
set_option Elab.async false

/-! ## Helpers -/

/-- The next state a step or a command answers. -/
def nextState : Host.Outcome State Fault Refusal → Option State
  | .next s => some s
  | _ => none

/-- What the model refuses, as the host sees it. -/
def refusal : Host.Outcome State Fault Refusal → Option Refusal
  | .refused r => some r
  | _ => none

/-- `s` with `es` as the host's events. -/
def withEvents (s : State) (es : List HostEvent) : State := { s with pending := es }

@[simp] theorem withEvents_pending (s : State) (es : List HostEvent) : (withEvents s es).pending = es := rfl

/-- An access of any width. -/
def accessOf (off : Int) (width : Nat) (op : BusOp) : HostEvent := .access { offset := off, width := width, op := op }

/-- The bytes of a list of words, each most significant byte first. -/
def bytesOf (ws : List Word) : List Byte := ws.flatMap beBytes32

/-- A state in which every piece of the core's state holds a value of its own. -/
def probe : State where
  h4 := #v[0xA0A1A2A3, 0xB0B1B2B3, 0xC0C1C2C3, 0xD0D1D2D3]
  h5 := #v[0x50515253, 0x60616263, 0x70717273, 0x80818283, 0x90919293]
  blk := Vector.ofFn fun i => BitVec.ofNat 8 i.val
  len := 0x0123456789ABCDEF
  padbuf := Vector.ofFn fun i => BitVec.ofNat 8 (255 - i.val)
  padlen := 17
  lastErr := 2
  sticky := true
  pending := []
  responses := []

/-- BLK with the first 64 bytes of a list. -/
def blkOf (B : List Byte) : Vector Byte 64 := Vector.ofFn fun i => byteAt B i.val

/-- The reset state with `LEN = L`, the start of the rows V-DEC and V-PAD. -/
def withLen (L : DWord) : State := { State.reset with len := L }

/-- "abc". -/
def abc : List Byte := [0x61, 0x62, 0x63]

/-- The reset state with the one block of MD4("abc"). -/
def md4Abc : State := { State.reset with blk := blkOf (abc ++ pad 3 64 .little) }

/-- The reset state with the one block of SHA-1("abc"). -/
def sha1Abc : State := { State.reset with blk := blkOf (abc ++ pad 3 64 .big) }

/-! ## WellFormed smoke: the one check, and ill-formed terms it refuses -/

theorem test_illformed_refused :
    Instr.wellFormed (.pad .little 16) = false ∧ Instr.wellFormed (.pad .big 255) = false := by decide

theorem test_wellformed_accepted :
    Instr.wellFormed (.pad .big 15) = true ∧ Instr.wellFormed .md4Init = true ∧ Instr.legal (.pad .big 7) = true ∧
    Instr.legal (.pad .big 8) = false := by decide

/-! ## Decoding: words written out field by field (30_encoding.md R64): RSV1, BSLOG, RSV0, ENDIAN, OP -/

theorem test_decode_md4 :
    (decode (0x00000#20 ++ 0b0000#4 ++ 0b000#3 ++ 0b0#1 ++ 0b0001#4)).toOption = some .md4Init ∧
    (decode (0x00000#20 ++ 0b0000#4 ++ 0b000#3 ++ 0b0#1 ++ 0b0010#4)).toOption = some .md4Compress := by decide

theorem test_decode_sha1 :
    (decode (0x00000#20 ++ 0b0000#4 ++ 0b000#3 ++ 0b0#1 ++ 0b0011#4)).toOption = some .sha1Init ∧
    (decode (0x00000#20 ++ 0b0000#4 ++ 0b000#3 ++ 0b0#1 ++ 0b0100#4)).toOption = some .sha1Compress := by decide

theorem test_decode_pad :
    (decode (0x00000#20 ++ 0b0110#4 ++ 0b000#3 ++ 0b1#1 ++ 0b0101#4)).toOption = some (.pad .big 6) ∧
    (decode (0x00000#20 ++ 0b0111#4 ++ 0b000#3 ++ 0b0#1 ++ 0b0101#4)).toOption = some (.pad .little 7) := by decide

/-- The words of 30_encoding.md R69 are what the encoder gives. -/
theorem test_encode_words :
    [Instr.md4Init, .md4Compress, .sha1Init, .sha1Compress, .pad .little 6, .pad .big 6, .pad .little 7, .pad .big 7].map
      encode = [0x1, 0x2, 0x3, 0x4, 0x605, 0x615, 0x705, 0x715] := by decide

/-- Rows V-DEC-1, 10 to 15 and 20 to 25: each is rejected. -/
theorem test_decode_rejects :
    ([0x00000000, 0x00000006, 0x0000000F, 0x00000011, 0x00000012, 0x80000001, 0x00000603, 0x00000625, 0x00000685,
      0x00001605, 0x80000605, 0x00001505, 0x00000045] : List Word).all
      (fun w => decide ((decode w).toOption = none)) = true := by decide +kernel

theorem test_decodeTableWord :
    decodeTableWord 32 0x00000615 = some (.pad .big 6) ∧ decodeTableWord 32 0x00000000 = none ∧
    decodeTableWord 64 0x100000001 = none := by decide

/-! ## LASTERR and STICKY (section 2.2) -/

/-- V-DEC-2, 4, 6 to 9: success. V-DEC-16 to 19: BAD_BLOCK_SIZE. V-DEC-24: ILLEGAL_CMD comes first. -/
theorem test_error_codes :
    ([0x1, 0x3, 0x605, 0x615, 0x705, 0x715, 0x5, 0x505, 0x805, 0xF05, 0x1505, 0x0] : List Word).map
      (fun w => (nextState (execute w (withLen 3))).map fun t => (t.lastErr, t.sticky)) =
    [some (0, false), some (0, false), some (0, false), some (0, false), some (0, false), some (0, false),
     some (2, true), some (2, true), some (2, true), some (2, true), some (1, true), some (1, true)] := by
  decide +kernel

/-- V-DEC-26, its second command: LASTERR follows the last command and STICKY stays. -/
theorem test_sticky_stays :
    (nextState (execute 0x1 { State.reset with lastErr := 1, sticky := true })).map (busRead · 0x004) =
      some 0x00000100 := by decide +kernel

/-! ## PAD (section 2.1) -/

/-- V-PAD-7, 9, 29, 37, 40, 44 and V-PAD-50: PADLEN and the length field. -/
theorem test_pad_field_and_length :
    ([(55, 0x605, 1), (56, 0x605, 64), (120, 0x705, 128), (0xFFFFFFFFFFFFFFFF, 0x605, 57), (0x0123456789ABCDEF, 0x615, 9),
      (0xFFFFFFFFFFFFFFF8, 0x615, 64), (0x100000000, 0x615, 56)] : List (DWord × Word × Nat)).map
      (fun (L, w, at_) => (nextState (execute w (withLen L))).map fun t =>
        (t.padlen.toNat, (t.padbuf.toList.drop at_).take 8)) =
    [some (9, [0xb8, 0x01, 0, 0, 0, 0, 0, 0]), some (72, [0xc0, 0x01, 0, 0, 0, 0, 0, 0]),
     some (136, [0xc0, 0x03, 0, 0, 0, 0, 0, 0]), some (65, [0xf8, 0xff, 0xff, 0xff, 0xff, 0xff, 0xff, 0xff]),
     some (17, [0x09, 0x1a, 0x2b, 0x3c, 0x4d, 0x5e, 0x6f, 0x78]),
     some (72, [0xff, 0xff, 0xff, 0xff, 0xff, 0xff, 0xff, 0xc0]), some (64, [0, 0, 0, 0x08, 0, 0, 0, 0])] := by
  decide +kernel

/-- V-PAD-47, its second PAD: the longer padding is cleared; V-PAD-49: a failed PAD leaves PADBUF and PADLEN. -/
theorem test_pad_clears_or_keeps :
    (nextState (execute 0x605 { probe with len := 55 })).map (fun t => t.padbuf.toList) =
      some ([0x80, 0xb8, 0x01, 0, 0, 0, 0, 0, 0] ++ List.replicate 127 0x00) ∧
    (nextState (execute 0x505 probe)).map (fun t => (decide (t.padbuf = probe.padbuf), t.padlen)) = some (true, 17) := by
  decide +kernel

/-! ## MD4 (section 2.4) -/

/-- V-MD4C-12. -/
theorem test_md4_init : (nextState (exec .md4Init probe)).map (fun t => (t.h4.toList, decide (t.h5 = probe.h5), t.padlen)) =
    some ([0x67452301, 0xEFCDAB89, 0x98BADCFE, 0x10325476], true, 17) := by decide +kernel

/-- V-MD4C-10. -/
theorem test_md4_compress_abc : (nextState (exec .md4Compress md4Abc)).map (·.h4.toList) =
    some [0x7A0148A4, 0x52D821AF, 0xE80AC15F, 0x9D72A67A] := by decide +kernel

/-- V-MD4C-9: the counting block from all-ones wraps every sum. -/
theorem test_md4_compress_wraps :
    (nextState (exec .md4Compress { probe with h4 := Vector.replicate 4 0xFFFFFFFF })).map (·.h4.toList) =
    some [0x18D555F9, 0xDC5BEEDC, 0x51D5389A, 0x61D92379] := by decide +kernel

/-- The columns k and s of the table of 41_md4.md R95, at the steps 5, 17, 31, 33 and 47. -/
theorem test_md4_step_table :
    [5, 17, 31, 33, 47].map (fun i => (md4Round i, md4WordIndex i, md4Rotation i)) =
    [(1, 5, 7), (2, 4, 5), (2, 15, 13), (3, 8, 9), (3, 15, 15)] := by decide

/-! ## SHA-1 (section 2.5) -/

/-- V-SHAC-12. -/
theorem test_sha1_init : (nextState (exec .sha1Init probe)).map (fun t => (t.h5.toList, decide (t.h4 = probe.h4))) =
    some ([0x67452301, 0xEFCDAB89, 0x98BADCFE, 0x10325476, 0xC3D2E1F0], true) := by decide +kernel

/-- V-SHAC-10. -/
theorem test_sha1_compress_abc : (nextState (exec .sha1Compress sha1Abc)).map (·.h5.toList) =
    some [0xA9993E36, 0x4706816A, 0xBA3E2571, 0x7850C26C, 0x9CD0D89D] := by decide +kernel

/-- V-SHAC-9: the counting block from all-ones wraps every sum. -/
theorem test_sha1_compress_wraps :
    (nextState (exec .sha1Compress { probe with h5 := Vector.replicate 5 0xFFFFFFFF })).map (·.h5.toList) =
    some [0xE06B718F, 0x3AB8F4B9, 0x1D197FF5, 0x3812823F, 0xF71F4FC1] := by decide +kernel

/-! ## Host accesses (section 2.3) -/

/-- V-BUS-1 to 5, 9, 10: the reset state through the read map. -/
theorem test_read_reset :
    ([0x000, 0x004, 0x014, 0x0C0, 0x0CC, 0x0D0, 0x0E0, 0x1FC] : List Nat).map (busRead State.reset) =
    [0, 0, 0, 0x67452301, 0x10325476, 0x01234567, 0xF0E1D2C3, 0] := by decide +kernel

/-- Every region of 20_memory.md R55 at its first and its last offset, in a state in which no two pieces agree. -/
theorem test_read_map_boundaries :
    ([0x000, 0x004, 0x008, 0x00C, 0x010, 0x014, 0x01C, 0x020, 0x02C, 0x030, 0x040, 0x044, 0x07C, 0x080, 0x0BC, 0x0C0, 0x0CC,
      0x0D0, 0x0E0, 0x0E4, 0x0FC, 0x100, 0x184, 0x188, 0x1FC] : List Nat).map (busRead probe) =
    [0, 0x00000102, 0x89ABCDEF, 0x01234567, 0x00000011, 0, 0, 0xA0A1A2A3, 0xD0D1D2D3, 0x50515253, 0x90919293, 0, 0,
     0x03020100, 0x3F3E3D3C, 0xA0A1A2A3, 0xD0D1D2D3, 0x53525150, 0x93929190, 0, 0, 0xFCFDFEFF, 0x78797A7B, 0, 0] := by
  decide +kernel

/-- V-BUS-6: the byte lanes. V-BUS-8: LEN_LO leaves LEN_HI. V-BUS-18: the view follows H5. -/
theorem test_writes :
    ((busStore State.reset 0x080 0x64636261).blk.toList.take 5 = [0x61, 0x62, 0x63, 0x64, 0x00]) ∧
    (busStore { State.reset with len := 0x1FFFFFFFF } 0x008 0).len = 0x100000000 ∧
    busRead (busStore State.reset 0x030 0xDEADBEEF) 0x0D0 = 0xEFBEADDE := by decide +kernel

/-- V-BUS-3, 5, 11, 12: writes that are ignored, at the first and last offset of every read-only or reserved region. -/
theorem test_writes_ignored :
    ∀ off ∈ ([0x004, 0x010, 0x014, 0x01C, 0x044, 0x07C, 0x0C0, 0x0CC, 0x0D0, 0x0E0, 0x0E4, 0x0FC, 0x100, 0x184, 0x188,
      0x1FC] : List Nat), nextState (step (withEvents probe [accessOf off 32 (.write 0xFFFFFFFF)])) =
        some { probe with responses := [.written] } := by decide +kernel

/-- V-BUS-13 to 16: a refused access leaves every piece of the core and is answered with a bus error. -/
theorem test_refused_accesses :
    ∀ e ∈ [accessOf 0x080 8 (.write 0xAA), accessOf 0x002 32 (.write 1), accessOf 0x004 16 .read, accessOf 0x001 32 (.write 2),
      accessOf 0x1FF 32 .read, accessOf 0x000 64 (.write 1)],
      nextState (step (withEvents probe [e])) = some { probe with responses := [.busError] } := by decide +kernel

/-- The two neighbours of the window (20_memory.md R49). -/
theorem test_outside_window :
    refusal (step (withEvents probe [accessOf (-1) 8 .read])) = some (.outsideWindow (-1)) ∧
    refusal (step (withEvents probe [accessOf 0x200 32 (.write 1)])) = some (.outsideWindow 0x200) ∧
    offsetOf 0x40000000 0x40000020 = 0x020 := by decide +kernel

/-! ## Steps, the fetch of a placed word, and reset -/

theorem test_fetch_word :
    (nextState (step (State.reset.withFetchWord 32 0x00000715))).map (fun t => (t.padlen, t.responses)) =
      some (128, [.written]) := by decide +kernel

/-- 70_reset_and_hazards.md R140, R141: from any state, also during a command. -/
theorem test_reset :
    nextState (step (withEvents probe [.reset])) = some State.reset ∧
    nextState (step (withEvents probe [.resetDuring 0x2])) = some { State.reset with responses := [.abandoned] } := by
  decide +kernel

/-! ## Messages (sections 2.6 and 2.7) -/

/-- V-MD4-1 and V-MD4-3, published digests. -/
theorem test_md4_digests :
    md4HashDefault [] = some (bytesOf [0x31d6cfe0, 0xd16ae931, 0xb73c59d7, 0xe0c089c0]) ∧
    md4HashDefault abc = some (bytesOf [0xa448017a, 0xaf21d852, 0x5fc10ae8, 0x7aa6729d]) := by decide +kernel

/-- V-MSG-3 (63 bytes, two blocks), the MD4 column. -/
theorem test_md4_two_blocks :
    md4HashDefault ((List.range 63).map fun i => BitVec.ofNat 8 (0x61 + i % 26)) =
      some (bytesOf [0x4f586836, 0x35e5c54a, 0x102b623a, 0xc768a8d0]) := by decide +kernel

/-- V-SHA-3, a published digest. -/
theorem test_sha1_digest :
    sha1HashDefault abc = some (bytesOf [0xa9993e36, 0x4706816a, 0xba3e2571, 0x7850c26c, 0x9cd0d89d]) := by decide +kernel

/-- 43_message_level.md R111: no value where the lengths disagree modulo 64. -/
theorem test_hash_core_domain : md4HashCore abc 4 Config.iv4 = none ∧ (md4HashCore abc 67 Config.iv4).isSome = true := by
  decide +kernel

/-- V-LE-2: the forged MAC for the guess 10 and a message of 77 bytes (its contents do not enter the forgery). -/
theorem test_forged_mac :
    forgedMac md4Algorithm (bytesOf [0x1c001303, 0x3ad2bd84, 0x70602d64, 0xd47c3d22]) (List.replicate 77 0x20)
      [0x3b, 0x61, 0x64, 0x6d, 0x69, 0x6e, 0x3d, 0x74, 0x72, 0x75, 0x65] 10 =
      some (bytesOf [0x8bd3d27e, 0x23d309e6, 0xafe680bf, 0xfd8c7afb]) := by decide +kernel

/-- The expansions of 30_encoding.md R76 in program P4: `sha1.setiv`, `len 139`, `pad be, 64` and `sha1.digest`. -/
theorem test_expansion :
    [HostOp.sha1Setiv #v[0xC23FC63F, 0x15DCEB6E, 0xEACB3E29, 0x6DB53FD6, 0x3F36978F], .len 139, .command (.pad .big 6)].flatMap
      HostOp.expand =
    [sw 0x030 0xC23FC63F, sw 0x034 0x15DCEB6E, sw 0x038 0xEACB3E29, sw 0x03C 0x6DB53FD6, sw 0x040 0x3F36978F,
     sw 0x008 0x8B, sw 0x00C 0, sw 0x000 0x615] ∧
    HostOp.sha1Digest.expand = [lw 0x0D0, lw 0x0D4, lw 0x0D8, lw 0x0DC, lw 0x0E0] ∧
    (HostOp.padbuf 61).expand.length = 16 := by decide +kernel

/-! ## Witnesses: states and operands that meet the hypotheses of the statements -/

theorem witness_DecodeAfterEncode : Instr.wellFormed (.pad .big 15) = true ∧ Instr.wellFormed (.pad .little 0) = true ∧
    Instr.wellFormed .sha1Compress = true := by decide

theorem witness_EncodeAfterDecode : (∃ i, decode 0x00000004 = .ok i) ∧ ∃ i, decode 0x00000F15 = .ok i :=
  ⟨⟨_, rfl⟩, ⟨_, rfl⟩⟩

theorem witness_DecodeFollowsMatchAndMask : decode 0x00000F15 = .ok (.pad .big 15) ∧ decode 0x00000005 = .ok (.pad .little 0) :=
  ⟨rfl, rfl⟩

/-- For each clause the words at both ends of its range. -/
theorem witness_IllegalWordsFail :
    ([0x00000000, 0x00000006, 0xFFFFFFFF] : List Word).all
      (fun w => decide (w.extractLsb' 0 4 = 0 ∨ 6 ≤ (w.extractLsb' 0 4).toNat)) = true ∧
    ([0x00000011, 0x80000004] : List Word).all
      (fun w => decide (1 ≤ (w.extractLsb' 0 4).toNat ∧ (w.extractLsb' 0 4).toNat ≤ 4 ∧ w.extractLsb' 4 28 ≠ 0)) = true ∧
    ([0x00000025, 0x00000085, 0x00001605, 0x80000605] : List Word).all
      (fun w => decide ((w.extractLsb' 0 4).toNat = 5 ∧ (w.extractLsb' 5 3 ≠ 0 ∨ w.extractLsb' 12 20 ≠ 0))) = true := by
  decide +kernel

theorem witness_ErrorCodeOfEveryWord :
    (nextState (execute 0x0 probe)).map (·.lastErr) = some 1 ∧ (nextState (execute 0x505 probe)).map (·.lastErr) = some 2 ∧
    (nextState (execute 0x1 probe)).map (·.lastErr) = some 0 := by decide +kernel

theorem witness_FailedCommandsArePrecise :
    ∃ t, execute 0x505 State.reset = .next t ∧ t.lastErr ≠ 0 := ⟨_, rfl, by decide⟩

theorem witness_Md4InitLoadsIv : ((0x11 : Word).extractLsb' 0 4 = 1 ∧ (0x11 : Word).extractLsb' 4 28 ≠ 0) ∧
    ((0x80000001 : Word).extractLsb' 0 4 = 1 ∧ (0x80000001 : Word).extractLsb' 4 28 ≠ 0) ∧
    ∃ t, exec .md4Init probe = .next t := ⟨by decide, by decide, _, rfl⟩

theorem witness_Sha1InitLoadsIv : ((0x13 : Word).extractLsb' 0 4 = 3 ∧ (0x13 : Word).extractLsb' 4 28 ≠ 0) ∧
    ((0x80000003 : Word).extractLsb' 0 4 = 3 ∧ (0x80000003 : Word).extractLsb' 4 28 ≠ 0) ∧
    ∃ t, exec .sha1Init probe = .next t := ⟨by decide, by decide, _, rfl⟩

theorem witness_Md4CompressRunsTheSteps :
    ((0x12 : Word).extractLsb' 0 4 = 2 ∧ (0x12 : Word).extractLsb' 4 28 ≠ 0) ∧
    md4Abc.h4 = Config.iv4 ∧ md4Abc.blk.toList = [0x61, 0x62, 0x63] ++ pad 3 64 .little := by decide +kernel

theorem witness_Sha1CompressRunsTheSteps :
    ((0x80000004 : Word).extractLsb' 0 4 = 4 ∧ (0x80000004 : Word).extractLsb' 4 28 ≠ 0) ∧
    sha1Abc.h5 = Config.iv5 ∧ sha1Abc.blk.toList = [0x61, 0x62, 0x63] ++ pad 3 64 .big := by decide +kernel

theorem witness_PadWritesThePadding :
    ((6 : Nat) = 6 ∨ (6 : Nat) = 7) ∧ ((7 : Nat) = 6 ∨ (7 : Nat) = 7) ∧
    ((0x25 : Word).extractLsb' 0 4 = 5 ∧ (0x25 : Word).extractLsb' 5 3 ≠ 0) ∧
    ((0x80000605 : Word).extractLsb' 0 4 = 5 ∧ (0x80000605 : Word).extractLsb' 12 20 ≠ 0) ∧
    ([0x5, 0x515, 0x805, 0xF15] : List Word).all (fun w => decide (w &&& 0xFFFFF0EF = 0x5 ∧
      (w.extractLsb' 8 4).toNat ≠ 6 ∧ (w.extractLsb' 8 4).toNat ≠ 7)) = true ∧ (withLen 3).len = 3 := by decide +kernel

theorem witness_PadRejectsOtherBlockSizes :
    ((5 : Nat) ≠ 6 ∧ (5 : Nat) ≠ 7) ∧ ((8 : Nat) ≠ 6 ∧ (8 : Nat) ≠ 7) ∧
    ∃ t, exec (.pad .big 8) probe = .next t ∧ t.lastErr = 2 := ⟨by decide, by decide, _, rfl, rfl⟩

/-- States that agree in what a command reads and in nothing else. -/
theorem witness_ImplicitOperandsOfCommands :
    (({ State.reset with h4 := probe.h4, blk := probe.blk } : State).h4 = probe.h4 ∧
      ({ State.reset with h4 := probe.h4, blk := probe.blk } : State).blk = probe.blk) ∧
    (({ State.reset with h5 := probe.h5, blk := probe.blk } : State).h5 = probe.h5 ∧
      ({ State.reset with h5 := probe.h5, blk := probe.blk } : State).blk = probe.blk) ∧
    (withLen probe.len).len = probe.len ∧ withLen probe.len ≠ probe := by decide +kernel

theorem witness_CommandsAreFunctionsOfTheCore : ∃ s₁ s₂ : State, s₁.SameCore s₂ ∧ s₁ ≠ s₂ :=
  ⟨probe, withEvents probe [.reset], ⟨rfl, rfl, rfl, rfl, rfl, rfl, rfl, rfl⟩, by decide +kernel⟩

/-- Both block sizes, and lengths with the shortest and the longest padding (40_padding.md R84, corner cases). -/
theorem witness_PaddingProperties :
    (zerosToPad 55 64 = 0 ∧ 55 % 64 = 64 - 9) ∧ (zerosToPad 56 64 = 63 ∧ 56 % 64 = 64 - 8) ∧
    (zerosToPad 119 128 = 0 ∧ 119 % 128 = 128 - 9) ∧ (zerosToPad 120 128 = 127 ∧ 120 % 128 = 128 - 8) := by decide

theorem witness_PaddingDependsOnResidueAndBitLength :
    0 % 64 = 2 ^ 61 % 64 ∧ bitlen 0 = bitlen (2 ^ 61) := by decide +kernel

theorem witness_Md4FunctionsBitwise : (0 : Nat) < 32 ∧ (31 : Nat) < 32 := by decide

/-- Every clause's offsets at both ends: they are the offsets of test_read_map_boundaries and test_writes_ignored. -/
theorem witness_BusReadMap :
    ∀ off ∈ ([0x000, 0x004, 0x008, 0x00C, 0x010, 0x014, 0x01C, 0x020, 0x02C, 0x030, 0x040, 0x044, 0x07C, 0x080, 0x0BC, 0x0C0,
      0x0CC, 0x0D0, 0x0E0, 0x0E4, 0x0FC, 0x100, 0x184, 0x188, 0x1FC] : List Nat), off < 0x200 ∧ off % 4 = 0 ∧
      (withEvents probe [accessOf off 32 .read]).pending = .access { offset := off, width := 32, op := .read } :: [] := by
  decide +kernel

theorem witness_BusWriteMap :
    ∀ off ∈ ([0x000, 0x004, 0x008, 0x00C, 0x010, 0x01C, 0x020, 0x02C, 0x030, 0x040, 0x044, 0x07C, 0x080, 0x0BC, 0x0C0,
      0x1FC] : List Nat), off < 0x200 ∧ off % 4 = 0 ∧
      (withEvents probe [accessOf off 32 (.write 7)]).pending =
        .access { offset := off, width := 32, op := .write 7 } :: [] := by decide +kernel

/-- The first and last words of the writable regions, written and read back. -/
theorem witness_ReadAfterWrite :
    ∀ off ∈ ([0x008, 0x00C, 0x020, 0x02C, 0x030, 0x040, 0x080, 0x0BC] : List Nat), off % 4 = 0 ∧
      (off = 0x008 ∨ off = 0x00C ∨ 0x020 ≤ off ∧ off ≤ 0x040 ∨ 0x080 ≤ off ∧ off ≤ 0x0BC) ∧
      busRead (busStore probe off 0x12345678) off = 0x12345678 := by decide +kernel

theorem witness_RefusedAccessChangesNothing :
    (0 ≤ (0x080 : Int) ∧ (0x080 : Int) < 0x200 ∧ (8 : Nat) ≠ 32) ∧ (0 ≤ (0x1FF : Int) ∧ (0x1FF : Int) < 0x200 ∧ (0x1FF : Int) % 4 ≠ 0) ∧
    (withEvents probe [accessOf 0x1FF 32 .read]).pending = .access { offset := 0x1FF, width := 32, op := .read } :: [] := by
  decide +kernel

theorem witness_OutsideWindowIsRefused :
    (withEvents probe [accessOf (-1) 32 .read]).pending = .access { offset := -1, width := 32, op := .read } :: [] ∧
    ((-1 : Int) < 0) ∧ (0x200 : Int) ≤ 0x200 := by decide +kernel

theorem witness_StepRunsDecodedCommand :
    (withEvents probe [cmdWrite 0x2]).pending = .access { offset := 0x000, width := 32, op := .write 0x2 } :: [] ∧
    decode 0x2 = .ok .md4Compress ∧ decodeTableWord 32 0x715 = some (.pad .big 7) := ⟨rfl, rfl, by decide⟩

theorem witness_IdleUntilFirstAccess : probe.pending = [] ∧ probe ≠ State.reset := by decide +kernel

theorem witness_SafeRunsNeverStop :
    State.Safe (withEvents probe [accessOf 0x1FF 8 .read, .reset, cmdWrite 0x2, .resetDuring 0x605]) := by
  unfold State.Safe; decide +kernel

theorem witness_ResetRestoresEveryPiece : (withEvents probe [.reset, .reset]).pending = .reset :: [.reset] := by
  decide +kernel

theorem witness_ResetAbandonsRunningCommand :
    (withEvents probe [.resetDuring 0x2]).pending = .resetDuring 0x2 :: [] := by decide +kernel

/-- A state that meets the invariant with a padding in PADBUF, an error and a command still to run, and its step. -/
theorem witness_EveryStepKeepsInvariant :
    ∃ s t : State, s.Inv ∧ s.padlen = 61 ∧ s.lastErr = 1 ∧ step s = .next t := by
  refine ⟨{ State.reset with
      padbuf := padBuffer (pad 3 64 .little), padlen := 61, lastErr := 1, sticky := true, pending := [cmdWrite 0x705] },
    _, ?_, rfl, rfl, rfl⟩
  unfold State.Inv
  decide +kernel

theorem witness_OnlyResetClearsSticky :
    ∃ t, step (withEvents probe [.reset]) = .next t ∧ (withEvents probe [.reset]).sticky = true ∧ t.sticky = false :=
  ⟨_, rfl, rfl, rfl⟩

theorem witness_OnlyCommandsWriteStatus :
    ∃ t, step (withEvents State.reset [cmdWrite 0x0]) = .next t ∧ t.lastErr ≠ State.reset.lastErr ∧
      t.sticky ≠ State.reset.sticky := ⟨_, rfl, by decide, by decide⟩

/-- Steps that change H4 and H5: a host write of the last word of each, and the initialising commands. -/
theorem witness_WritersOfChainingState :
    ((nextState (step (withEvents probe [accessOf 0x02C 32 (.write 1)]))).map fun t => decide (t.h4 ≠ probe.h4)) = some true ∧
    ((nextState (step (withEvents probe [accessOf 0x040 32 (.write 1)]))).map fun t => decide (t.h5 ≠ probe.h5)) = some true ∧
    ((nextState (step (withEvents probe [cmdWrite 0x1]))).map fun t => decide (t.h4 ≠ probe.h4)) = some true ∧
    ((nextState (step (withEvents probe [cmdWrite 0x3]))).map fun t => decide (t.h5 ≠ probe.h5)) = some true := by
  decide +kernel

theorem witness_WritersOfBlkAndLen :
    ((nextState (step (withEvents probe [accessOf 0x0BC 32 (.write 1)]))).map fun t => decide (t.blk ≠ probe.blk)) = some true ∧
    ((nextState (step (withEvents probe [accessOf 0x00C 32 (.write 1)]))).map fun t => decide (t.len ≠ probe.len)) = some true := by
  decide +kernel

theorem witness_WritersOfPadding :
    ((nextState (step (withEvents { probe with len := 55 } [cmdWrite 0x715]))).map fun t => decide (t.padbuf ≠ probe.padbuf)) = some true ∧
    ((nextState (step (withEvents { probe with len := 55 } [cmdWrite 0x715]))).map fun t => decide (t.padlen ≠ probe.padlen)) = some true := by
  decide +kernel

theorem witness_PaddedStreamAlignment : 2 ^ 64 - 1 < 2 ^ 64 ∧ (abc.length % 64 = 67 % 64) := by decide

theorem witness_HashChaining :
    ∃ (M₁ M₂ : List Byte) (L : Nat), M₁.length % 64 = 0 ∧ M₁ ≠ [] ∧ M₂.length % 64 = L % 64 ∧ L < 2 ^ 64 :=
  ⟨List.replicate 64 0x61, abc, 67, by decide +kernel, by decide +kernel, by decide, by decide⟩

theorem witness_LengthExtensionIdentity :
    (∃ K m s : List Byte, K.length + m.length + (pad (K.length + m.length) 64 .little).length + s.length < 2 ^ 64) ∧
    ∃ K m s : List Byte, K.length + m.length + (pad (K.length + m.length) 64 .big).length + s.length < 2 ^ 64 :=
  ⟨⟨[0x6b], abc, abc, by decide +kernel⟩, ⟨[0x6b], abc, abc, by decide +kernel⟩⟩

/-- A one-byte key, the message "bc" and the published MD4("abc") (V-MD4-3), searched in the range 1 to 1. -/
theorem witness_KeyLengthSearchSucceeds :
    ∃ key message mac : List Byte, 1 ≤ key.length ∧ key.length ≤ 1 ∧
      md4Algorithm.hashDefault (key ++ message) = some mac ∧
      key.length + message.length + (glue md4Algorithm message key.length).length + abc.length < 2 ^ 64 :=
  ⟨[0x61], [0x62, 0x63], bytesOf [0xa448017a, 0xaf21d852, 0x5fc10ae8, 0x7aa6729d], by decide, by decide, by decide +kernel,
    by decide +kernel⟩

theorem witness_SixteenWritesFillBlk :
    ∃ (s : State) (B : List Byte), B.length = 64 ∧ s.pending = program [.blk B] ++ [] :=
  ⟨withEvents probe (program [.blk (List.replicate 64 0x5A)]), List.replicate 64 0x5A, by simp,
    by simp⟩

theorem witness_Md4SequenceComputesHashCore :
    ∃ (M : List Byte) (L : Nat) (s : State), L < 2 ^ 64 ∧ M.length % 64 = L % 64 ∧
      s.pending = program (md4Sequence M L Config.iv4) ++ [] :=
  ⟨abc, 67, withEvents probe (program (md4Sequence abc 67 Config.iv4)), by decide, by decide, by simp⟩

theorem witness_Sha1SequenceComputesHashCore :
    ∃ (M : List Byte) (L : Nat) (s : State), L < 2 ^ 64 ∧ M.length % 64 = L % 64 ∧
      s.pending = program (sha1Sequence M L Config.iv5) ++ [] :=
  ⟨abc, 67, withEvents probe (program (sha1Sequence abc 67 Config.iv5)), by decide, by decide, by simp⟩

end Sys2Proof.Tests
end

section
/-! PROOFS. The status bits and the reset values (10_state.md R36, R39). -/

namespace Sys2Proof.Machine

/-! ### Commands and the status bits -/

/-- A success keeps the STICKY it finds and overwrites the LASTERR it finds. -/
theorem succeed_setStatus (s : State) (e : BitVec 4) (k : Bool) :
    succeed (s.setStatus e k) = { succeed s with sticky := k } := by
  simp only [succeed_eq, State.setStatus]

/-- A PAD that fails overwrites both status fields, so the ones it finds leave no trace. -/
theorem fail_badBlockSize_setStatus (s : State) (e : BitVec 4) (k : Bool) :
    fail .badBlockSize (s.setStatus e k) = fail .badBlockSize s := by
  simp only [fail_badBlockSize_eq, State.setStatus]

/-- No command reads the status bits: whatever they are, the command either succeeds on one and the same written state
`u`, with those bits put into it, or fails with BAD_BLOCK_SIZE (10_state.md R36). -/
theorem exec_setStatus_cases (i : Instr) (s : State) :
    (∃ u : State, ∀ e k, exec i (s.setStatus e k) = .next (succeed (u.setStatus e k))) ∨
    (∀ e k, exec i (s.setStatus e k) = .next (fail .badBlockSize s)) := by
  cases i with
  | md4Init => exact .inl ⟨s.setH4 Config.iv4, fun _ _ => rfl⟩
  | md4Compress => exact .inl ⟨s.setH4 (md4Block s.h4 s.blk.toList), fun _ _ => rfl⟩
  | sha1Init => exact .inl ⟨s.setH5 Config.iv5, fun _ _ => rfl⟩
  | sha1Compress => exact .inl ⟨s.setH5 (sha1Block s.h5 s.blk.toList), fun _ _ => rfl⟩
  | pad endian bslog =>
    by_cases h : bslog = 6 ∨ bslog = 7
    · refine .inl ⟨writePadding endian (blockSize bslog) s, fun e k => ?_⟩
      rw [exec, execPad_eq, if_pos h]
      rfl
    · refine .inr fun e k => ?_
      rw [exec, execPad_eq, if_neg h, fail_badBlockSize_setStatus]

/-- Settles O9: the outcome of a command does not depend on the status bits it finds, and `succeed` and `fail` write
them as the statement says. -/
theorem everyCommandReportsInStatus : Obligations.EveryCommandReportsInStatus := by
  intro i s
  obtain ⟨u, hu⟩ | hf := exec_setStatus_cases i s
  · refine ⟨succeed (u.setStatus s.lastErr s.sticky), hu s.lastErr s.sticky, .inl ⟨rfl, by simp⟩, fun e k => ⟨k, ?_⟩⟩
    exact (hu e k).trans (by rw [succeed_setStatus, succeed_setStatus])
  · refine ⟨fail .badBlockSize s, hf s.lastErr s.sticky, .inr ⟨.inr rfl, by simp⟩, fun e k => ⟨true, ?_⟩⟩
    exact (hf e k).trans (by rw [fail_badBlockSize_eq])

/-! ### Reset -/

/-- Settles O33, field by field; the buffers are read at an index below their size. -/
theorem resetValues : Obligations.ResetValues := by
  refine ⟨State.reset_h4, State.reset_h5, fun i hi => ?_, State.reset_len, fun i hi => ?_, State.reset_padlen,
    State.reset_lastErr, State.reset_sticky⟩
  · simp [hi]
  · simp [hi]

end Sys2Proof.Machine
end

section
/-! PROOFS. The read map and the write map of the register window (20_memory.md R45, R55, R56). -/

namespace Sys2Proof.Machine

/-! ### The words a read returns -/

theorem toNat_lenLo (l : DWord) : (lenLo l).toNat = l.toNat % 2 ^ 32 := by simp [lenLo]

theorem toNat_lenHi (l : DWord) : (lenHi l).toNat = l.toNat / 2 ^ 32 := by
  have h : l.toNat / 2 ^ 32 < 2 ^ 32 := by have := l.isLt; omega
  rw [lenHi, BitVec.extractLsb'_toNat, Nat.shiftRight_eq_div_pow, Nat.mod_eq_of_lt h]

theorem toNat_lenOfHalves (hi lo : Word) : (lenOfHalves hi lo).toNat = hi.toNat * 2 ^ 32 + lo.toNat := by
  rw [lenOfHalves, BitVec.toNat_append, ← Nat.shiftLeft_add_eq_or_of_lt lo.isLt, Nat.shiftLeft_eq]

/-- STICKY and LASTERR do not overlap in the STATUS word, so the word is their sum. -/
theorem toNat_statusWord (e : BitVec 4) (k : Bool) :
    (statusWord e k).toNat = (if k then 0x100 else 0) + e.toNat := by
  have he : e.toNat < 2 ^ 8 := by have := e.isLt; omega
  rw [statusWord, BitVec.toNat_or, BitVec.toNat_setWidth_of_le (show 4 ≤ 32 by decide)]
  cases k with
  | false => simp
  | true => exact (Nat.two_pow_add_eq_or_of_lt he 1).symm

/-- A word read through the byte lanes carries byte `i + k` in its lane `k` (20_memory.md R45). -/
theorem extractLsb'_le32 (B : List Byte) (i : Nat) {k : Nat} (hk : k < 4) :
    (le32 B i).extractLsb' (8 * k) 8 = byteAt B (i + k) := by
  apply BitVec.eq_of_getLsbD_eq
  intro m hm
  simp only [le32, BitVec.getLsbD_extractLsb', BitVec.getLsbD_or, BitVec.getLsbD_shiftLeft, BitVec.getLsbD_setWidth]
  interval_cases k <;> interval_cases m <;> simp

/-- The bytes of an array are the lanes of the words read from it. -/
theorem getElem?_eq_lane_le32 {n : Nat} (b : Vector Byte n) {i k : Nat} (hk : k < 4) (h : i + k < n) :
    b[i + k]? = some ((le32 b.toList i).extractLsb' (8 * k) 8) := by
  rw [extractLsb'_le32 _ _ hk]
  simp [byteAt, h]

/-- The words read from MD4_DIGEST are those of H4: both are little-endian (10_state.md R32). -/
theorem le32_md4Digest (h : Vector Word 4) {i : Nat} (hi : i < 4) : le32 (md4Digest h) (4 * i) = h[i] := by
  interval_cases i <;> exact le32_leBytes32 _

/-- The word whose bytes, lowest first, are the big-endian bytes of `h` is `h` with its bytes in the other order. -/
theorem le32_beBytes32 (h : Word) :
    le32 (beBytes32 h) 0 =
      h.extractLsb' 0 8 ++ h.extractLsb' 8 8 ++ h.extractLsb' 16 8 ++ h.extractLsb' 24 8 := by
  apply BitVec.eq_of_getLsbD_eq
  intro m hm
  simp only [le32, beBytes32, byteAt, List.getD_cons_zero, List.getD_cons_succ, BitVec.getLsbD_or,
    BitVec.getLsbD_shiftLeft, BitVec.getLsbD_setWidth, BitVec.getLsbD_append]
  interval_cases m <;> simp

/-- The words read from SHA1_DIGEST are those of H5, serialised big-endian (10_state.md R33). -/
theorem le32_sha1Digest (h : Vector Word 5) {i : Nat} (hi : i < 5) :
    le32 (sha1Digest h) (4 * i) = le32 (beBytes32 h[i]) 0 := by
  interval_cases i <;> rfl

/-! ### The read map, region by region -/

theorem busRead_h4 (s : State) {i : Nat} (hi : i < 4) : s.h4[i]? = some (busRead s (0x020 + 4 * i)) := by
  have e : (0x020 + 4 * i - 0x020) / 4 = i := by omega
  unfold busRead
  iterate 5 rw [if_neg (by omega)]
  rw [if_pos (by omega), e]
  simp [Vector.getD, hi]

theorem busRead_h5 (s : State) {i : Nat} (hi : i < 5) : s.h5[i]? = some (busRead s (0x030 + 4 * i)) := by
  have e : (0x030 + 4 * i - 0x030) / 4 = i := by omega
  unfold busRead
  iterate 6 rw [if_neg (by omega)]
  rw [if_pos (by omega), e]
  simp [Vector.getD, hi]

theorem busRead_blk (s : State) {j : Nat} (hj : j < 16) :
    busRead s (0x080 + 4 * j) = le32 s.blk.toList (4 * j) := by
  unfold busRead
  iterate 7 rw [if_neg (by omega)]
  rw [if_pos (by omega), Nat.add_sub_cancel_left]

theorem busRead_md4Digest (s : State) {i : Nat} (hi : i < 4) :
    busRead s (0x0C0 + 4 * i) = le32 (md4Digest s.h4) (4 * i) := by
  unfold busRead
  iterate 8 rw [if_neg (by omega)]
  rw [if_pos (by omega), Nat.add_sub_cancel_left]

theorem busRead_sha1Digest (s : State) {i : Nat} (hi : i < 5) :
    busRead s (0x0D0 + 4 * i) = le32 (sha1Digest s.h5) (4 * i) := by
  unfold busRead
  iterate 9 rw [if_neg (by omega)]
  rw [if_pos (by omega), Nat.add_sub_cancel_left]

theorem busRead_padbuf (s : State) {j : Nat} (hj : j < 34) :
    busRead s (0x100 + 4 * j) = le32 s.padbuf.toList (4 * j) := by
  unfold busRead
  iterate 10 rw [if_neg (by omega)]
  rw [if_pos (by omega), Nat.add_sub_cancel_left]

/-- The reserved offsets read as zero. -/
theorem busRead_reserved (s : State) {off : Nat}
    (h : 0x014 ≤ off ∧ off ≤ 0x01F ∨ 0x044 ≤ off ∧ off ≤ 0x07F ∨ 0x0E4 ≤ off ∧ off ≤ 0x0FF ∨ 0x188 ≤ off) :
    busRead s off = 0 := by
  unfold busRead
  iterate 11 rw [if_neg (by omega)]

/-! ### The write map -/

/-- Replacing the element at an index inside a vector replaces that element alone. -/
theorem getElem?_setIfInBounds_of_lt {α : Type} {n : Nat} (b : Vector α n) {i : Nat} (hi : i < n) (m : Nat) (x : α) :
    (b.setIfInBounds i x)[m]? = if m = i then some x else b[m]? := by
  rw [Vector.getElem?_setIfInBounds]
  by_cases h : i = m
  · subst h; simp [hi]
  · simp [h, Ne.symm h]

/-- A store outside the five writable regions does nothing. -/
theorem busStore_ignored (s : State) (v : Word) {off : Nat} (hlo : off ≠ 0x008) (hhi : off ≠ 0x00C)
    (hh : ¬(0x020 ≤ off ∧ off ≤ 0x040)) (hb : ¬(0x080 ≤ off ∧ off ≤ 0x0BC)) : busStore s off v = s := by
  unfold busStore
  rw [if_neg hlo, if_neg hhi, if_neg (by omega), if_neg (by omega), if_neg hb]

/-! ### The step of an accepted access -/

/-- An access of 32 bits at an aligned offset of the window is performed (20_memory.md R46). -/
theorem step_of_aligned {s : State} {off : Nat} {op : BusOp} {rest : List HostEvent} (hlt : off < 0x200)
    (hal : off % 4 = 0) (hp : s.pending = .access { offset := off, width := 32, op := op } :: rest) :
    step s = acceptedAccess { offset := off, width := 32, op := op } (s.setPending rest) := by
  rw [step_of_event hp]
  refine hostAccess_accepted ((BusAccess.inWindow_iff _).2 ⟨?_, ?_⟩) ((BusAccess.accepted_iff _).2 ⟨rfl, ?_⟩) _ <;>
    dsimp only <;> omega

theorem step_of_read {s : State} {off : Nat} {rest : List HostEvent} (hlt : off < 0x200) (hal : off % 4 = 0)
    (hp : s.pending = .access { offset := off, width := 32, op := .read } :: rest) :
    step s = .next ((s.setPending rest).respond (.data (busRead s off))) :=
  step_of_aligned hlt hal hp

theorem step_of_write {s : State} {off : Nat} {v : Word} {rest : List HostEvent} (hlt : off < 0x200)
    (hal : off % 4 = 0) (hp : s.pending = .access { offset := off, width := 32, op := .write v } :: rest) :
    step s = busWrite off v ((s.setPending rest).respond .written) :=
  step_of_aligned hlt hal hp

theorem busWrite_of_ne_cmd {off : Nat} (h : off ≠ 0x000) (v : Word) (s : State) :
    busWrite off v s = .next (busStore s off v) := if_neg h

/-! ### The two maps -/

/-- Settles O23: the word is `busRead s off`, and each clause is the read map at one region. -/
theorem busReadMap : Obligations.BusReadMap := by
  intro s off rest hlt hal hp
  refine ⟨busRead s off, step_of_read hlt hal hp, ?cmd, ?status, ?lenLo, ?lenHi, ?padlen, ?h4, ?h5, ?blk, ?md4, ?sha1,
    ?padbuf, busRead_reserved s⟩
  case cmd => rintro rfl; rfl
  case status => rintro rfl; exact toNat_statusWord s.lastErr s.sticky
  case lenLo => rintro rfl; exact toNat_lenLo s.len
  case lenHi => rintro rfl; exact toNat_lenHi s.len
  case padlen =>
    rintro rfl
    exact BitVec.toNat_setWidth_of_le (show 8 ≤ 32 by decide)
  case h4 => rintro i hi rfl; exact busRead_h4 s hi
  case h5 => rintro i hi rfl; exact busRead_h5 s hi
  case blk =>
    rintro j hj rfl k hk
    rw [busRead_blk s hj]
    exact getElem?_eq_lane_le32 s.blk hk (by omega)
  case md4 =>
    rintro i hi rfl
    rw [busRead_md4Digest s hi, le32_md4Digest s.h4 hi]
    exact Vector.getElem?_eq_getElem hi
  case sha1 =>
    rintro i hi rfl
    refine ⟨s.h5[i], Vector.getElem?_eq_getElem hi, ?_⟩
    rw [busRead_sha1Digest s hi, le32_sha1Digest s.h5 hi, le32_beBytes32]
  case padbuf =>
    rintro j hj rfl k hk
    rw [busRead_padbuf s hj]
    exact getElem?_eq_lane_le32 s.padbuf hk (by omega)

/-- Settles O24: a write to CMD executes its word, any other is one store, and each clause is the store at one region. -/
theorem busWriteMap : Obligations.BusWriteMap := by
  intro s off v rest hlt hal hp u
  have hw : step s = busWrite off v u := step_of_write hlt hal hp
  have hstore (h : off ≠ 0x000) : step s = .next (busStore u off v) := hw.trans (busWrite_of_ne_cmd h v u)
  refine ⟨?cmd, ?lenLo, ?lenHi, ?h4, ?h5, ?blk, ?ignored⟩
  case cmd => rintro rfl; exact hw
  case lenLo =>
    rintro rfl
    refine ⟨_, hstore (by decide), ?_⟩
    rw [toNat_lenOfHalves, toNat_lenHi]
  case lenHi =>
    rintro rfl
    refine ⟨_, hstore (by decide), ?_⟩
    rw [toNat_lenOfHalves, toNat_lenLo]
  case h4 =>
    rintro i hi rfl
    have hs := hstore (by omega)
    rw [busStore_h4 u v hi] at hs
    exact ⟨_, hs, fun m _ => getElem?_setIfInBounds_of_lt s.h4 hi m v⟩
  case h5 =>
    rintro i hi rfl
    have hs := hstore (by omega)
    rw [busStore_h5 u v hi] at hs
    exact ⟨_, hs, fun m _ => getElem?_setIfInBounds_of_lt s.h5 hi m v⟩
  case blk =>
    rintro j hj rfl
    have hs := hstore (by omega)
    rw [busStore_blk u v hj] at hs
    refine ⟨_, hs, fun k hk => ?_, fun m _ hm => ?_⟩
    · rw [getElem?_storeLanes _ _ _ _ (by omega), if_pos (by omega), Nat.add_sub_cancel_left]
    · rw [getElem?_storeLanes _ _ _ _ (by omega), if_neg (by omega)]
  case ignored =>
    intro h0 hlo hhi hh hb
    rw [hstore h0, busStore_ignored u v hlo hhi hh hb]

end Sys2Proof.Machine
end

section
/-! PROOFS. The decoder's branches, how a word that names no command fails, and the implicit operands of the commands
(30_encoding.md R70 to R72). -/

namespace Sys2Proof.Machine

/-! ### The decoder, branch by branch -/

theorem decode_of_noSuchOperation {cmd : Word} (h : cmdOp cmd = 0 ∨ 6 ≤ cmdOp cmd) :
    decode cmd = .error .noSuchOperation := by
  unfold decode
  split
  case h_6 => rfl
  all_goals omega

/-- The four commands without operands share one branch of the decoder. -/
theorem decode_of_opcode {cmd : Word} {i : Instr} (h : cmdOp cmd = i.opcode) (hi : i.opcode ≠ 5) :
    decode cmd = decodePlain cmd i := by
  cases i with
  | pad e b => exact absurd rfl hi
  | _ => rw [decode, h]; rfl

theorem decode_of_plain {cmd : Word} {i : Instr} (h : cmdOp cmd = i.opcode) (hi : i.opcode ≠ 5)
    (hz : cmdAboveOp cmd = 0) : decode cmd = .ok i :=
  (decode_of_opcode h hi).trans (if_pos hz)

theorem decode_of_plain_reserved {cmd : Word} (h : 1 ≤ cmdOp cmd ∧ cmdOp cmd ≤ 4) (hr : cmdAboveOp cmd ≠ 0) :
    decode cmd = .error .reservedBitSet := by
  obtain ⟨i, hi, hi5⟩ : ∃ i : Instr, cmdOp cmd = i.opcode ∧ i.opcode ≠ 5 := by
    obtain h1 | h2 | h3 | h4 : cmdOp cmd = 1 ∨ cmdOp cmd = 2 ∨ cmdOp cmd = 3 ∨ cmdOp cmd = 4 := by omega
    · exact ⟨.md4Init, h1, by decide⟩
    · exact ⟨.md4Compress, h2, by decide⟩
    · exact ⟨.sha1Init, h3, by decide⟩
    · exact ⟨.sha1Compress, h4, by decide⟩
  exact (decode_of_opcode hi hi5).trans (if_neg hr)

theorem decode_of_pad {cmd : Word} (h : cmdOp cmd = 5) (hz : ¬(cmdRsv1 cmd ≠ 0 ∨ cmdRsv0 cmd ≠ 0)) :
    decode cmd = .ok (.pad (cmdEndian cmd) (cmdBslog cmd)) := by
  rw [decode, h]
  exact if_pos (by tauto)

theorem decode_of_pad_reserved {cmd : Word} (h : cmdOp cmd = 5) (hr : cmdRsv1 cmd ≠ 0 ∨ cmdRsv0 cmd ≠ 0) :
    decode cmd = .error .reservedBitSet := by
  rw [decode, h]
  exact if_neg (by tauto)

/-- The one-bit field `ENDIAN` is bit 4 of the word (30_encoding.md R64, R66). -/
theorem cmdEndian_eq (cmd : Word) : cmdEndian cmd = if cmd.getLsbD 4 then .big else .little := by
  have hbit : cmd.extractLsb' 4 1 = 1#1 ↔ cmd.getLsbD 4 = true := by
    simp [BitVec.eq_of_getLsbD_eq_iff]
  simp only [cmdEndian, hbit]

/-! ### How a rejected word fails -/

/-- A word the decoder rejects writes LASTERR and STICKY and nothing else. -/
theorem execute_illegal {cmd : Word} {e : DecodeError} (h : decode cmd = .error e) (s : State) :
    execute cmd s = .next { s with lastErr := 1, sticky := true } := by
  rw [execute_of_error h, fail_illegalCmd_eq]

/-- A PAD word whose only defect is its block size fails with the other code. -/
theorem exec_pad_badBlockSize (e : Endian) {b : Nat} (h : ¬(b = 6 ∨ b = 7)) (s : State) :
    exec (.pad e b) s = .next { s with lastErr := 2, sticky := true } := by
  rw [exec, execPad_eq, if_neg h, fail_badBlockSize_eq]

/-- Settles O6: the decoder rejects each of the three classes, and the zero word is of the first. -/
theorem illegalWordsFail : Obligations.IllegalWordsFail := by
  have hop {w : Word} (h : w.extractLsb' 0 4 = 0) : cmdOp w = 0 := congrArg BitVec.toNat h
  refine ⟨fun w s h => ?_, fun s => execute_illegal (decode_of_noSuchOperation (.inl rfl)) s⟩
  obtain h | ⟨hlo, hhi, hr⟩ | ⟨h5, hr⟩ := h
  · exact execute_illegal (decode_of_noSuchOperation (h.imp_left hop)) s
  · exact execute_illegal (decode_of_plain_reserved ⟨hlo, hhi⟩ hr) s
  · exact execute_illegal (decode_of_pad_reserved h5 hr.symm) s

/-- Settles O5: each check of the chain is a branch of the decoder, but for the last, which is PAD's own; a word that
passes them all decodes to the command its OP names. -/
theorem executeChecksInOrder : Obligations.ExecuteChecksInOrder := by
  intro cmd s op bslog endian
  have hop : cmdOp cmd = op := rfl
  have hendian : cmdEndian cmd = endian := cmdEndian_eq cmd
  clear_value op endian
  split_ifs with hno habove hrsv hbs h1 h2 h3 h4
  · exact execute_illegal (decode_of_noSuchOperation (hop ▸ hno)) s
  · exact execute_illegal (decode_of_plain_reserved (by omega) habove.2) s
  · exact execute_illegal (decode_of_pad_reserved (hop.trans hrsv.1) hrsv.2) s
  · have hdec := decode_of_pad (hop.trans hbs.1) fun hr => hrsv ⟨hbs.1, hr⟩
    exact (execute_of_ok hdec s).trans (exec_pad_badBlockSize _ hbs.2 s)
  · exact execute_of_ok (decode_of_plain (i := .md4Init) (hop.trans h1) (by decide) (by tauto)) s
  · exact execute_of_ok (decode_of_plain (i := .md4Compress) (hop.trans h2) (by decide) (by tauto)) s
  · exact execute_of_ok (decode_of_plain (i := .sha1Init) (hop.trans h3) (by decide) (by tauto)) s
  · exact execute_of_ok (decode_of_plain (i := .sha1Compress) (hop.trans h4) (by decide) (by tauto)) s
  · have h5 : op = 5 := by omega
    rw [← hendian]
    exact execute_of_ok (decode_of_pad (hop.trans h5) fun hr => hrsv ⟨h5, hr⟩) s

/-! ### Implicit operands -/

/-- A command that succeeds and writes `f s` to H4 changes H4 and STATUS alone, and what it writes is fixed by `f`. -/
theorem exec_setH4_operands {i : Instr} {f : State → Vector Word 4}
    (h : ∀ s, exec i s = .next (succeed (s.setH4 (f s)))) (s : State) :
    ∃ t, exec i s = .next t ∧ t = { s with h4 := t.h4, lastErr := t.lastErr, sticky := t.sticky } ∧
      ∀ s', f s' = f s → ∃ t', exec i s' = .next t' ∧ t'.h4 = t.h4 :=
  ⟨_, h s, by simp [succeed_eq, State.setH4], fun s' e => ⟨_, h s', by simp [e]⟩⟩

/-- A command that succeeds and writes `f s` to H5 changes H5 and STATUS alone, and what it writes is fixed by `f`. -/
theorem exec_setH5_operands {i : Instr} {f : State → Vector Word 5}
    (h : ∀ s, exec i s = .next (succeed (s.setH5 (f s)))) (s : State) :
    ∃ t, exec i s = .next t ∧ t = { s with h5 := t.h5, lastErr := t.lastErr, sticky := t.sticky } ∧
      ∀ s', f s' = f s → ∃ t', exec i s' = .next t' ∧ t'.h5 = t.h5 :=
  ⟨_, h s, by simp [succeed_eq, State.setH5], fun s' e => ⟨_, h s', by simp [e]⟩⟩

/-- A PAD with a supported block size succeeds. -/
theorem exec_pad_supported (e : Endian) {b : Nat} (h : b = 6 ∨ b = 7) (s : State) :
    exec (.pad e b) s = .next (succeed (writePadding e (blockSize b) s)) := by
  rw [exec, execPad_eq, if_pos h]

/-- Settles O16: the two compressions read the chaining state and BLK, PAD reads LEN, and a PAD that fails writes STATUS
only. -/
theorem implicitOperandsOfCommands : Obligations.ImplicitOperandsOfCommands := by
  refine ⟨fun s => ?md4Init, fun s => ?md4Compress, fun s => ?sha1Init, fun s => ?sha1Compress, fun e b s => ?pad⟩
  case md4Init =>
    obtain ⟨t, ht, hframe, hreads⟩ := exec_setH4_operands (i := .md4Init) (f := fun _ => Config.iv4) (fun _ => rfl) s
    exact ⟨t, ht, hframe, fun s' => hreads s' rfl⟩
  case md4Compress =>
    obtain ⟨t, ht, hframe, hreads⟩ := exec_setH4_operands (i := .md4Compress)
      (f := fun s => md4Block s.h4 s.blk.toList) (fun _ => rfl) s
    exact ⟨t, ht, hframe, fun s' hh hb => hreads s' (by rw [hh, hb])⟩
  case sha1Init =>
    obtain ⟨t, ht, hframe, hreads⟩ := exec_setH5_operands (i := .sha1Init) (f := fun _ => Config.iv5) (fun _ => rfl) s
    exact ⟨t, ht, hframe, fun s' => hreads s' rfl⟩
  case sha1Compress =>
    obtain ⟨t, ht, hframe, hreads⟩ := exec_setH5_operands (i := .sha1Compress)
      (f := fun s => sha1Block s.h5 s.blk.toList) (fun _ => rfl) s
    exact ⟨t, ht, hframe, fun s' hh hb => hreads s' (by rw [hh, hb])⟩
  case pad =>
    by_cases h : b = 6 ∨ b = 7
    · refine ⟨_, exec_pad_supported e h s, by apply State.eq_of_fields <;> simp, fun s' _ hl => ?_⟩
      exact ⟨_, exec_pad_supported e h s', by simp [hl], by simp [hl]⟩
    · exact ⟨_, exec_pad_badBlockSize e h s, rfl, fun _ h' => absurd h' h⟩

end Sys2Proof.Machine
end

section
/-! PROOFS. PAD: the bytes of PADBUF, PADLEN, and the words that run it or fail (40_padding.md R84). -/

namespace Sys2Proof.Machine

/-! ### The bytes of the length field -/

theorem toNat_bitlen (L : Nat) : (bitlen L).toNat = L * 8 % 2 ^ 64 := BitVec.toNat_ofNat _ _

/-- A byte of a double word is a quotient of its value. -/
theorem toNat_extractLsb'_byte (v : DWord) (k : Nat) : (v.extractLsb' k 8).toNat = v.toNat / 2 ^ k % 2 ^ 8 := by
  rw [BitVec.extractLsb'_toNat, Nat.shiftRight_eq_div_pow]

theorem byteAt_leBytes64 (v : DWord) {j : Nat} (hj : j < 8) : byteAt (leBytes64 v) j = v.extractLsb' (8 * j) 8 := by
  simp [byteAt, leBytes64, hj]

theorem byteAt_beBytes64 (v : DWord) {j : Nat} (hj : j < 8) :
    byteAt (beBytes64 v) j = v.extractLsb' (56 - 8 * j) 8 := by
  simp [byteAt, beBytes64, hj]

/-! ### The bytes of the padding: marker, filler, field (40_padding.md R81) -/

theorem byteAt_pad_marker (L bs : Nat) (e : Endian) : byteAt (pad L bs e) 0 = 0x80 := rfl

theorem byteAt_pad_filler (L bs : Nat) (e : Endian) {i : Nat} (h1 : 1 ≤ i) (hz : i < 1 + zerosToPad L bs) :
    byteAt (pad L bs e) i = 0x00 := by
  obtain ⟨k, rfl⟩ := Nat.exists_eq_add_of_le' h1
  have hk : k < zerosToPad L bs := by omega
  simp [byteAt, pad, List.getElem?_append_left, hk]

theorem byteAt_pad_field (L bs : Nat) (e : Endian) (j : Nat) :
    byteAt (pad L bs e) (1 + zerosToPad L bs + j) = byteAt (lengthField L e) j := by
  have hprefix : ([0x80] ++ List.replicate (zerosToPad L bs) 0x00 : List Byte).length = 1 + zerosToPad L bs := by
    simp [Nat.add_comm]
  rw [byteAt, byteAt, pad, List.getD_append_right _ _ _ _ (by omega), hprefix, Nat.add_sub_cancel_left]

/-! ### What PAD leaves in PADBUF and PADLEN -/

/-- The padding fits PADBUF, and its length fits PADLEN (40_padding.md R82). -/
theorem pad_length_le (L : Nat) (e : Endian) {bslog : Nat} (h : bslog = 6 ∨ bslog = 7) :
    (pad L (blockSize bslog) e).length ≤ 136 := by
  have hbs : 0 < blockSize bslog ∧ blockSize bslog ≤ 128 := by rcases h with rfl | rfl <;> decide
  have hz := zerosToPad_lt L hbs.1
  rw [pad_length]
  omega

/-- PAD with a supported block size, as one update of the state. -/
theorem exec_pad_eq (e : Endian) {bslog : Nat} (h : bslog = 6 ∨ bslog = 7) (s : State) :
    exec (.pad e bslog) s = .next { s with
      padbuf := padBuffer (pad s.len.toNat (blockSize bslog) e)
      padlen := BitVec.ofNat 8 (pad s.len.toNat (blockSize bslog) e).length
      lastErr := 0 } := by
  rw [exec_pad_supported e h, succeed_eq, writePadding, State.setPadding]

/-! ### The words of PAD -/

/-- A field whose bits a mask keeps can be read from the masked word. -/
theorem extractLsb'_and_of_allOnes {n start len : Nat} (w m : BitVec n)
    (hm : m.extractLsb' start len = BitVec.allOnes len) :
    (w &&& m).extractLsb' start len = w.extractLsb' start len := by
  rw [BitVec.extractLsb'_and, hm, BitVec.and_allOnes]

/-- The mask of PAD keeps OP and the reserved bits and drops ENDIAN and BSLOG (30_encoding.md R69). -/
theorem decode_of_pad_mask {w : Word} (h : w &&& 0xFFFFF0EF = 0x5) :
    decode w = .ok (.pad (cmdEndian w) (cmdBslog w)) := by
  have hfield {start len : Nat} (hm : (0xFFFFF0EF : Word).extractLsb' start len = BitVec.allOnes len) :
      w.extractLsb' start len = (0x5 : Word).extractLsb' start len := by
    rw [← h, extractLsb'_and_of_allOnes w _ hm]
  have hop : cmdOp w = 5 := congrArg BitVec.toNat (hfield (start := 0) (len := 4) (by decide))
  have hrsv0 : cmdRsv0 w = 0 := hfield (by decide)
  have hrsv1 : cmdRsv1 w = 0 := hfield (by decide)
  exact decode_of_pad hop (not_or.2 ⟨not_not.2 hrsv1, not_not.2 hrsv0⟩)

/-- Settles O14: the bytes of PADBUF are those of `pad` with zeros after them, and each word takes its branch of the
decoder. -/
theorem padWritesThePadding : Obligations.PadWritesThePadding := by
  refine ⟨fun e bslog s hb => ?effect, fun s =>
    ⟨?little64, ?big64, ?little128, ?big128, ?reserved, ?blockSize, ?example3⟩⟩
  case effect =>
    intro bs r z bits
    have hz : zerosToPad s.len.toNat (blockSize bslog) = z := rfl
    have hbits : (bitlen s.len.toNat).toNat = bits := toNat_bitlen _
    -- from here on the statement's filler count and bit length go under the model's names
    clear_value z bits
    subst hz hbits
    have hle := pad_length_le s.len.toNat e hb
    have hlen := pad_length s.len.toNat (blockSize bslog) e
    have hn : (BitVec.ofNat 8 (pad s.len.toNat (blockSize bslog) e).length).toNat =
        1 + zerosToPad s.len.toNat (blockSize bslog) + 8 := by
      rw [BitVec.toNat_ofNat, Nat.mod_eq_of_lt (by omega)]
      omega
    refine ⟨_, _, exec_pad_eq e hb s, hn, ?marker, fun i h1 hi => ?filler, fun j hj => ?field, fun i hi h136 => ?rest⟩
    case marker => rw [padBuffer_getElem? _ (by decide), byteAt_pad_marker]
    case filler => rw [padBuffer_getElem? _ (by omega), byteAt_pad_filler _ _ _ h1 hi]
    case field =>
      rw [padBuffer_getElem? _ (by omega), byteAt_pad_field, Option.map_some]
      cases e with
      | little => rw [lengthField, byteAt_leBytes64 _ hj, toNat_extractLsb'_byte]
      | big => rw [lengthField, byteAt_beBytes64 _ hj, toNat_extractLsb'_byte]
    case rest => rw [padBuffer_getElem? _ h136, byteAt_of_length_le (by omega)]
  case little64 => exact execute_of_ok (by decide) s
  case big64 => exact execute_of_ok (by decide) s
  case little128 => exact execute_of_ok (by decide) s
  case big128 => exact execute_of_ok (by decide) s
  case reserved =>
    intro w hop hr
    exact execute_illegal (decode_of_pad_reserved (congrArg BitVec.toNat hop) hr.symm) s
  case blockSize =>
    intro w hmask h6 h7
    exact (execute_of_ok (decode_of_pad_mask hmask) s).trans (exec_pad_badBlockSize _ (not_or.2 ⟨h6, h7⟩) s)
  case example3 =>
    intro hlen
    have hrun : execute 0x605 s = exec (.pad .little 6) s := execute_of_ok (by decide) s
    rw [hrun, exec_pad_eq .little (.inl rfl), hlen]
    exact ⟨padBuffer (pad 3 64 .little), rfl, by decide⟩

end Sys2Proof.Machine
end

section
/-! PROOFS. MD4: its functions bit by bit, MD4_INIT, and the steps of MD4_COMPRESS (41_md4.md R88, R97, R98). -/

namespace Sys2Proof.Machine

/-! ### The functions, bit by bit (41_md4.md R88) -/

theorem getLsbD_md4F (x y z : Word) {i : Nat} (hi : i < 32) :
    (md4F x y z).getLsbD i = if x.getLsbD i then y.getLsbD i else z.getLsbD i := by
  simp only [md4F, BitVec.getLsbD_or, BitVec.getLsbD_and, BitVec.getLsbD_not]
  cases x.getLsbD i <;> simp [hi]

theorem getLsbD_md4G (x y z : Word) (i : Nat) :
    (md4G x y z).getLsbD i =
      decide (2 ≤ (x.getLsbD i).toNat + (y.getLsbD i).toNat + (z.getLsbD i).toNat) := by
  simp only [md4G, BitVec.getLsbD_or, BitVec.getLsbD_and]
  generalize x.getLsbD i = p, y.getLsbD i = q, z.getLsbD i = r
  revert p q r
  decide

theorem getLsbD_md4H (x y z : Word) (i : Nat) :
    (md4H x y z).getLsbD i =
      decide (((x.getLsbD i).toNat + (y.getLsbD i).toNat + (z.getLsbD i).toNat) % 2 = 1) := by
  simp only [md4H, BitVec.getLsbD_xor]
  generalize x.getLsbD i = p, y.getLsbD i = q, z.getLsbD i = r
  revert p q r
  decide

/-- Settles O21: the formulas are the definitions, and each bit of a function depends on the three bits at its place. -/
theorem md4FunctionsBitwise : Obligations.Md4FunctionsBitwise := fun x y z =>
  ⟨rfl, rfl, rfl, fun i hi => ⟨getLsbD_md4F x y z hi, getLsbD_md4G x y z i, getLsbD_md4H x y z i⟩⟩

/-! ### The two commands as updates, and the words that fail -/

/-- A success that wrote H4, as one update of the state. -/
theorem succeed_setH4 (s : State) (h : Vector Word 4) : succeed (s.setH4 h) = { s with h4 := h, lastErr := 0 } :=
  succeed_eq _

theorem exec_md4Init (s : State) : exec .md4Init s = .next { s with h4 := Config.iv4, lastErr := 0 } :=
  congrArg Host.Outcome.next (succeed_setH4 s _)

theorem exec_md4Compress (s : State) :
    exec .md4Compress s = .next { s with h4 := md4Block s.h4 s.blk.toList, lastErr := 0 } :=
  congrArg Host.Outcome.next (succeed_setH4 s _)

/-- A word of OP 1 to 4 with a bit set above OP fails (30_encoding.md R68). -/
theorem execute_of_plain_reserved {w : Word} {op : BitVec 4} (hop : w.extractLsb' 0 4 = op)
    (h : 1 ≤ op.toNat ∧ op.toNat ≤ 4) (hr : w.extractLsb' 4 28 ≠ 0) (s : State) :
    execute w s = .next { s with lastErr := 1, sticky := true } := by
  subst hop
  exact execute_illegal (decode_of_plain_reserved h hr) s

/-- The first word of H4 is read at MD4_A and at the first word of MD4_DIGEST alike. -/
theorem busRead_firstWord (s : State) : busRead s 0x020 = s.h4[0] ∧ busRead s 0x0C0 = s.h4[0] := by
  have h4 := (busRead_h4 s (i := 0) (by decide)).symm.trans (Vector.getElem?_eq_getElem (by decide))
  have digest := (busRead_md4Digest s (i := 0) (by decide)).trans (le32_md4Digest s.h4 (by decide))
  exact ⟨Option.some.inj h4, digest⟩

/-- Settles O10: the command is one update of the state, and both reads return the first word it wrote. -/
theorem md4InitLoadsIv : Obligations.Md4InitLoadsIv := by
  intro s
  refine ⟨exec_md4Init s, execute_of_ok (by decide) s,
    fun w hop hr => execute_of_plain_reserved hop (by decide) hr s, fun t ht => ?_⟩
  rw [exec_md4Init] at ht
  cases ht
  exact busRead_firstWord _

/-! ### The message words and the tables of the steps -/

theorem md4Words_getD (B : List Byte) {j : Nat} (hj : j < 16) : (md4Words B).getD j 0 = le32 B (4 * j) := by
  simp [md4Words, hj]

/-- What a table that goes by the round gives at step `i`. -/
theorem apply_md4Round {α : Type} (T : Nat → α) {i : Nat} (hi : i < 48) :
    T (md4Round i) = if i < 16 then T 1 else if i < 32 then T 2 else T 3 := by
  unfold md4Round
  split_ifs with h1 h2 <;> congr 1 <;> omega

/-- A step's formula with the tables of its round (41_md4.md R89, R92 to R94). -/
theorem md4Mix_of_lt (X : List Word) {i : Nat} (hi : i < 48) (v p q u : Word) :
    md4Mix X i v p q u =
      (v + (if i < 16 then md4F p q u else if i < 32 then md4G p q u else md4H p q u) +
        X.getD ((if i < 16 then md4Order 1 else if i < 32 then md4Order 2 else md4Order 3).getD (i % 16) 0) 0 +
        (if i < 16 then md4K 1 else if i < 32 then md4K 2 else md4K 3)).rotateLeft
      ((if i < 16 then md4Shift 1 else if i < 32 then md4Shift 2 else md4Shift 3).getD (i % 16 % 4) 0) := by
  have hrot : ∀ i < 48, md4Rotation i < 32 := by decide
  rw [md4Mix, rotl_eq_rotateLeft _ (hrot i hi), md4WordIndex, md4Rotation, apply_md4Round md4Order hi,
    apply_md4Round md4Shift hi, apply_md4Round md4K hi, apply_md4Round (fun r => md4Fn r p q u) hi]
  rfl

/-! ### What one step does to each working word (41_md4.md R94) -/

/-- Each step updates one word, in the order `a, d, c, b`. -/
theorem md4Step_eq (X : List Word) (w : Md4Work) (i : Nat) :
    md4Step X w i =
      { a := if i % 4 = 0 then md4Mix X i w.a w.b w.c w.d else w.a
        b := if i % 4 = 3 then md4Mix X i w.b w.c w.d w.a else w.b
        c := if i % 4 = 2 then md4Mix X i w.c w.d w.a w.b else w.c
        d := if i % 4 = 1 then md4Mix X i w.d w.a w.b w.c else w.d } := by
  have hlt : i % 4 < 4 := Nat.mod_lt i (by decide)
  unfold md4Step
  generalize i % 4 = m at hlt
  interval_cases m <;> rfl

/-! ### MD4_COMPRESS (41_md4.md R98) -/

/-- The rule's example: the one block of "abc". -/
theorem md4Block_abc :
    md4Block Config.iv4 ([0x61, 0x62, 0x63] ++ pad 3 64 .little) =
      #v[0x7A0148A4, 0x52D821AF, 0xE80AC15F, 0x9D72A67A] := by decide +kernel

/-- Settles O12: the message words are those of BLK, and the values of the working words after `i` steps are those of
`md4Rounds`, whose recursion is the pseudocode. -/
theorem md4CompressRunsTheSteps : Obligations.Md4CompressRunsTheSteps := by
  intro s
  let X := md4Words s.blk.toList
  let w := md4Rounds X (md4Start s.h4)
  refine ⟨fun j => X.getD j 0, fun i => (w i).a, fun i => (w i).b, fun i => (w i).c, fun i => (w i).d,
    fun j hj k hk => ?words, rfl, rfl, rfl, rfl, fun i hi => ?steps, exec_md4Compress s, execute_of_ok (by decide) s,
    fun v hop hr => execute_of_plain_reserved hop (by decide) hr s, fun hh hb => ?abc⟩
  case words =>
    dsimp only
    rw [md4Words_getD _ hj]
    exact getElem?_eq_lane_le32 s.blk hk (by omega)
  case steps =>
    intro t K k r f new
    have hnew (v p q u : Word) : new v p q u = md4Mix X i v p q u := (md4Mix_of_lt X hi v p q u).symm
    have hstep : w (i + 1) = md4Step X (w i) i := md4Rounds_succ X _ i
    simp only [hstep, md4Step_eq, hnew, and_self]
  case abc => rw [exec_md4Compress, hh, hb, md4Block_abc]

end Sys2Proof.Machine
end

section
/-! PROOFS. SHA-1: SHA1_INIT, and the schedule and the steps of SHA1_COMPRESS (42_sha1.md R106, R107). -/

namespace Sys2Proof.Machine

/-! ### The two commands as updates -/

/-- A success that wrote H5, as one update of the state. -/
theorem succeed_setH5 (s : State) (h : Vector Word 5) : succeed (s.setH5 h) = { s with h5 := h, lastErr := 0 } :=
  succeed_eq _

theorem exec_sha1Init (s : State) : exec .sha1Init s = .next { s with h5 := Config.iv5, lastErr := 0 } :=
  congrArg Host.Outcome.next (succeed_setH5 s _)

theorem exec_sha1Compress (s : State) :
    exec .sha1Compress s = .next { s with h5 := sha1Block s.h5 s.blk.toList, lastErr := 0 } :=
  congrArg Host.Outcome.next (succeed_setH5 s _)

/-! ### SHA1_INIT (42_sha1.md R106) -/

/-- SHA1_H4 reads the last word of H5. -/
theorem busRead_lastWordOfH5 (s : State) : busRead s 0x040 = s.h5[4] :=
  Option.some.inj ((busRead_h5 s (i := 4) (by decide)).symm.trans (Vector.getElem?_eq_getElem (by decide)))

/-- The first word of SHA1_DIGEST reads the first word of H5 with its bytes in the other order. -/
theorem busRead_firstWordOfSha1Digest (s : State) : busRead s 0x0D0 = le32 (beBytes32 s.h5[0]) 0 :=
  (busRead_sha1Digest s (i := 0) (by decide)).trans (le32_sha1Digest s.h5 (by decide))

/-- Settles O11: the command is one update of the state, and the two reads return the last word it wrote as it is and
the first with its bytes reversed. -/
theorem sha1InitLoadsIv : Obligations.Sha1InitLoadsIv := by
  intro s
  refine ⟨exec_sha1Init s, execute_of_ok (by decide) s,
    fun w hop hr => execute_of_plain_reserved hop (by decide) hr s, fun t ht => ?_⟩
  rw [exec_sha1Init] at ht
  cases ht
  have hfirst : le32 (beBytes32 (0x67452301 : Word)) 0 = 0x01234567 := by decide
  exact ⟨busRead_lastWordOfH5 _, (busRead_firstWordOfSha1Digest _).trans hfirst⟩

/-! ### The schedule (42_sha1.md R102, R103) -/

/-- A big-endian word carries byte `i + k` in its lane `3 - k` (00_scope.md R14). -/
theorem extractLsb'_be32 (B : List Byte) (i : Nat) {k : Nat} (hk : k < 4) :
    (be32 B i).extractLsb' (24 - 8 * k) 8 = byteAt B (i + k) := by
  apply BitVec.eq_of_getLsbD_eq
  intro m hm
  simp only [be32, BitVec.getLsbD_extractLsb', BitVec.getLsbD_or, BitVec.getLsbD_shiftLeft, BitVec.getLsbD_setWidth]
  interval_cases k <;> interval_cases m <;> simp

/-- The bytes of an array are the lanes, highest first, of its big-endian words. -/
theorem getElem?_eq_lane_be32 {n : Nat} (b : Vector Byte n) {i k : Nat} (hk : k < 4) (h : i + k < n) :
    b[i + k]? = some ((be32 b.toList i).extractLsb' (24 - 8 * k) 8) := by
  rw [extractLsb'_be32 _ _ hk]
  simp [byteAt, h]

/-- The first sixteen words of the schedule are the message words. -/
theorem sha1Schedule_getD_of_lt (B : List Byte) {j : Nat} (hj : j < 16) :
    (sha1Schedule B).getD j 0 = be32 B (4 * j) := by
  rw [sha1Schedule, sha1ScheduleUpTo_getD_of_le B (Nat.zero_le 64) hj]
  simp [sha1ScheduleUpTo, sha1Words, hj]

/-- The word a list is extended with follows the recurrence on the words before it. -/
theorem sha1Extend_getD_length (W : List Word) :
    (sha1Extend W).getD W.length 0 = (W.getD (W.length - 3) 0 ^^^ W.getD (W.length - 8) 0 ^^^
      W.getD (W.length - 14) 0 ^^^ W.getD (W.length - 16) 0).rotateLeft 1 := by
  rw [sha1Extend, List.getD_append_right _ _ _ _ le_rfl, Nat.sub_self, List.getD_cons_zero,
    rotl_eq_rotateLeft _ (by decide)]

/-- Word `i` of the schedule is the one added by extension `i - 16`; the extensions after it leave it, and the words it
is made of, as they are. -/
theorem sha1Schedule_getD_recurrence (B : List Byte) {i : Nat} (h16 : 16 ≤ i) (h80 : i < 80) :
    (sha1Schedule B).getD i 0 = ((sha1Schedule B).getD (i - 3) 0 ^^^ (sha1Schedule B).getD (i - 8) 0 ^^^
      (sha1Schedule B).getD (i - 14) 0 ^^^ (sha1Schedule B).getD (i - 16) 0).rotateLeft 1 := by
  obtain ⟨n, rfl⟩ := Nat.exists_eq_add_of_le h16
  have hearlier {j : Nat} (hj : j < 16 + n) : (sha1Schedule B).getD j 0 = (sha1ScheduleUpTo B n).getD j 0 :=
    sha1ScheduleUpTo_getD_of_le B (by omega) hj
  have hnew : (sha1Schedule B).getD (16 + n) 0 = (sha1Extend (sha1ScheduleUpTo B n)).getD (16 + n) 0 :=
    sha1ScheduleUpTo_getD_of_le B (m := n + 1) (by omega) (by omega)
  have hword := sha1Extend_getD_length (sha1ScheduleUpTo B n)
  rw [sha1ScheduleUpTo_length] at hword
  rw [hnew, hword, hearlier (by omega), hearlier (by omega), hearlier (by omega), hearlier (by omega)]

/-! ### The steps (42_sha1.md R104, R105) -/

/-- What a table that goes by `i div 20` gives at step `i`. -/
theorem apply_div20 {α : Type} (T : Nat → α) {i : Nat} (hi : i < 80) :
    T (i / 20) = if i < 20 then T 0 else if i < 40 then T 1 else if i < 60 then T 2 else T 3 := by
  split_ifs with h1 h2 h3 <;> congr 1 <;> omega

/-- A step with the function and the constant of its quarter (42_sha1.md R104, R105). -/
theorem sha1Step_of_lt (W : List Word) (w : Sha1Work) {i : Nat} (hi : i < 80) :
    sha1Step W w i =
      { a := w.a.rotateLeft 5 +
          (if i < 20 then sha1Fn 0 w.b w.c w.d else if i < 40 then sha1Fn 1 w.b w.c w.d
            else if i < 60 then sha1Fn 2 w.b w.c w.d else sha1Fn 3 w.b w.c w.d) + w.e +
          (if i < 20 then sha1K 0 else if i < 40 then sha1K 1 else if i < 60 then sha1K 2 else sha1K 3) + W.getD i 0
        b := w.a, c := w.b.rotateLeft 30, d := w.c, e := w.d } := by
  rw [sha1Step, rotl_eq_rotateLeft _ (by decide), rotl_eq_rotateLeft _ (by decide), apply_div20 sha1K hi,
    apply_div20 (fun q => sha1Fn q w.b w.c w.d) hi]

/-! ### SHA1_COMPRESS (42_sha1.md R107) -/

/-- The rule's example: the one block of "abc". -/
theorem sha1Block_abc :
    sha1Block Config.iv5 ([0x61, 0x62, 0x63] ++ pad 3 64 .big) =
      #v[0xA9993E36, 0x4706816A, 0xBA3E2571, 0x7850C26C, 0x9CD0D89D] := by decide +kernel

/-- Settles O13: the schedule words are those of `sha1Schedule`, and the values of the working words after `i` steps are
those of `sha1Rounds`, whose recursion is the pseudocode. -/
theorem sha1CompressRunsTheSteps : Obligations.Sha1CompressRunsTheSteps := by
  intro s
  let W := sha1Schedule s.blk.toList
  let w := sha1Rounds W (sha1Start s.h5)
  refine ⟨fun j => W.getD j 0, fun i => (w i).a, fun i => (w i).b, fun i => (w i).c, fun i => (w i).d,
    fun i => (w i).e, fun j hj k hk => ?words, fun i h16 h80 => sha1Schedule_getD_recurrence _ h16 h80, rfl, rfl, rfl,
    rfl, rfl, fun i hi => ?steps, exec_sha1Compress s, execute_of_ok (by decide) s,
    fun v hop hr => execute_of_plain_reserved hop (by decide) hr s, fun hh hb => ?abc⟩
  case words =>
    dsimp only
    rw [sha1Schedule_getD_of_lt _ hj]
    exact getElem?_eq_lane_be32 s.blk hk (by omega)
  case steps =>
    intro f k
    have hstep : w (i + 1) =
        { a := (w i).a.rotateLeft 5 + f + (w i).e + k + W.getD i 0
          b := (w i).a, c := (w i).b.rotateLeft 30, d := (w i).c, e := (w i).d } :=
      (sha1Rounds_succ W _ i).trans (sha1Step_of_lt W (w i) hi)
    simp only [hstep, and_self]
  case abc => rw [exec_sha1Compress, hh, hb, sha1Block_abc]

end Sys2Proof.Machine
end

section
/-! PROOFS. Commands and the host's side: a command neither reads nor writes it (43_message_level.md R121). -/

namespace Sys2Proof.Machine

/-! ### Two states with the same core differ in the host's side alone -/

theorem State.SameCore.eq_hostUpdate {s t : State} (h : s.SameCore t) :
    t = { s with pending := t.pending, responses := t.responses } := by
  obtain ⟨h4, h5, hb, hl, hp, hn, he, hk⟩ := h
  exact State.eq_of_fields h4 h5 hb hl hp hn he hk rfl rfl

theorem hostUpdate_sameCore (s : State) (p : List HostEvent) (r : List BusResponse) :
    s.SameCore { s with pending := p, responses := r } := by simp [State.SameCore]

/-! ### A command commutes with every update of the host's side -/

theorem exec_hostUpdate (i : Instr) (s : State) :
    ∃ u, exec i s = .next u ∧ u.pending = s.pending ∧ u.responses = s.responses ∧
      ∀ p r, exec i { s with pending := p, responses := r } = .next { u with pending := p, responses := r } := by
  cases i with
  | md4Init => exact ⟨_, exec_md4Init s, rfl, rfl, fun _ _ => exec_md4Init _⟩
  | md4Compress => exact ⟨_, exec_md4Compress s, rfl, rfl, fun _ _ => exec_md4Compress _⟩
  | sha1Init => exact ⟨_, exec_sha1Init s, rfl, rfl, fun _ _ => exec_sha1Init _⟩
  | sha1Compress => exact ⟨_, exec_sha1Compress s, rfl, rfl, fun _ _ => exec_sha1Compress _⟩
  | pad e b =>
    by_cases h : b = 6 ∨ b = 7
    · exact ⟨_, exec_pad_supported e h s, by simp, by simp, fun _ _ => exec_pad_supported e h _⟩
    · exact ⟨_, exec_pad_badBlockSize e h s, rfl, rfl, fun _ _ => exec_pad_badBlockSize e h _⟩

/-- The same for every word: the decoder sees the word alone, and a word it rejects writes STATUS only. -/
theorem execute_hostUpdate (w : Word) (s : State) :
    ∃ u, execute w s = .next u ∧ u.pending = s.pending ∧ u.responses = s.responses ∧
      ∀ p r, execute w { s with pending := p, responses := r } = .next { u with pending := p, responses := r } := by
  cases hdec : decode w with
  | error e => exact ⟨_, execute_illegal hdec s, rfl, rfl, fun _ _ => execute_illegal hdec _⟩
  | ok i => simpa only [execute_of_ok hdec] using exec_hostUpdate i s

/-- Settles O17: the second state is the first with another host's side, and the command commutes with that update. -/
theorem commandsAreFunctionsOfTheCore : Obligations.CommandsAreFunctionsOfTheCore := by
  intro w s₁ s₂ hcore
  obtain ⟨u, hu, hpending, hresponses, hupdate⟩ := execute_hostUpdate w s₁
  have hu₂ := hupdate s₂.pending s₂.responses
  rw [← hcore.eq_hostUpdate] at hu₂
  exact ⟨u, _, hu, hu₂, hostUpdate_sameCore u _ _, hpending, hresponses⟩

end Sys2Proof.Machine
end

section
/-! PROOFS. Which words decode to a command, which error code each word produces, and what a failed command leaves
unchanged (60_exceptions.md R124, R126, R130). -/

namespace Sys2Proof.Machine

/-! ### The word of a decoded command -/

/-- `OP` and the bits above it are the whole word (30_encoding.md R68). -/
theorem toNat_eq_op_add_aboveOp (w : Word) : w.toNat = cmdOp w + (cmdAboveOp w).toNat * 2 ^ 4 := by
  simp only [cmdOp, cmdAboveOp, BitVec.extractLsb'_toNat, Nat.shiftRight_eq_div_pow]
  omega

theorem bit_cmdEndian (w : Word) : (cmdEndian w).bit = (w.extractLsb' 4 1).toNat := by
  unfold cmdEndian
  obtain h | h := BitVec.eq_zero_or_eq_one (w.extractLsb' 4 1) <;> simp [h, Endian.bit]

/-- The five fields of a PAD word are the whole word (30_encoding.md R64). -/
theorem toNat_eq_padFields (w : Word) :
    w.toNat = cmdOp w + (cmdEndian w).bit * 2 ^ 4 + (cmdRsv0 w).toNat * 2 ^ 5 + cmdBslog w * 2 ^ 8 +
      (cmdRsv1 w).toNat * 2 ^ 12 := by
  simp only [bit_cmdEndian, cmdOp, cmdRsv0, cmdBslog, cmdRsv1, BitVec.extractLsb'_toNat, Nat.shiftRight_eq_div_pow]
  omega

theorem cmdBslog_lt (w : Word) : cmdBslog w < 16 := (w.extractLsb' 8 4).isLt

theorem decodePlain_eq_ok {w : Word} {i j : Instr} (h : decodePlain w i = .ok j) : cmdAboveOp w = 0 ∧ j = i := by
  unfold decodePlain at h
  split at h
  · next hz => exact ⟨hz, (Except.ok.inj h).symm⟩
  · cases h

/-- Everything an accepted word can be: a command without operands, or a PAD with the operands in its fields, and every
reserved bit 0 either way. -/
theorem decode_cases {w : Word} {i : Instr} (h : decode w = .ok i) :
    (cmdOp w = i.opcode ∧ i.opcode ≠ 5 ∧ cmdAboveOp w = 0) ∨
    (cmdOp w = 5 ∧ cmdRsv1 w = 0 ∧ cmdRsv0 w = 0 ∧ i = .pad (cmdEndian w) (cmdBslog w)) := by
  have plain {j : Instr} (hop : cmdOp w = j.opcode) (hj : j.opcode ≠ 5) :
      cmdOp w = i.opcode ∧ i.opcode ≠ 5 ∧ cmdAboveOp w = 0 := by
    obtain ⟨hz, rfl⟩ := decodePlain_eq_ok ((decode_of_opcode hop hj).symm.trans h)
    exact ⟨hop, hj, hz⟩
  obtain hno | h1 | h2 | h3 | h4 | h5 : (cmdOp w = 0 ∨ 6 ≤ cmdOp w) ∨ cmdOp w = 1 ∨ cmdOp w = 2 ∨ cmdOp w = 3 ∨
      cmdOp w = 4 ∨ cmdOp w = 5 := by omega
  · rw [decode_of_noSuchOperation hno] at h; cases h
  · exact .inl (plain (j := .md4Init) h1 (by decide))
  · exact .inl (plain (j := .md4Compress) h2 (by decide))
  · exact .inl (plain (j := .sha1Init) h3 (by decide))
  · exact .inl (plain (j := .sha1Compress) h4 (by decide))
  · by_cases hr : cmdRsv1 w ≠ 0 ∨ cmdRsv0 w ≠ 0
    · rw [decode_of_pad_reserved h5 hr] at h; cases h
    · obtain ⟨hr1, hr0⟩ := not_or.1 hr
      rw [decode_of_pad h5 hr] at h
      exact .inr ⟨h5, not_not.1 hr1, not_not.1 hr0, (Except.ok.inj h).symm⟩

theorem wellFormed_of_opcode_ne_pad {i : Instr} (h : i.opcode ≠ 5) : i.wellFormed = true ∧ i.operandBits = 0 := by
  cases i with
  | pad e b => exact absurd rfl h
  | _ => exact ⟨rfl, rfl⟩

theorem encode_eq_of_toNat {i : Instr} {w : Word} (h : w.toNat = i.opcode + i.operandBits) : encode i = w := by
  rw [encode, ← h, BitVec.ofNat_toNat, BitVec.setWidth_eq]

theorem wellFormed_encode_of_decode {w : Word} {i : Instr} (h : decode w = .ok i) :
    i.wellFormed = true ∧ encode i = w := by
  obtain ⟨hop, h5, hz⟩ | ⟨hop, hr1, hr0, rfl⟩ := decode_cases h
  · obtain ⟨hwf, hbits⟩ := wellFormed_of_opcode_ne_pad h5
    refine ⟨hwf, encode_eq_of_toNat ?_⟩
    simp [toNat_eq_op_add_aboveOp w, hop, hz, hbits]
  · refine ⟨decide_eq_true (cmdBslog_lt w), encode_eq_of_toNat ?_⟩
    simp [toNat_eq_padFields w, hop, hr1, hr0, Instr.opcode, Instr.operandBits, Nat.add_assoc]

/-! ### The legal words and the words of PAD -/

theorem legal_pad_iff {e : Endian} {b : Nat} : (Instr.pad e b).legal = true ↔ b = 6 ∨ b = 7 := decide_eq_true_iff

theorem mem_padWords_iff {w : Word} :
    w ∈ [0x605, 0x615, 0x705, 0x715] ↔ ∃ e b, decode w = .ok (.pad e b) ∧ (Instr.pad e b).legal = true := by
  constructor
  · intro h
    obtain rfl | rfl | rfl | rfl : w = 0x605 ∨ w = 0x615 ∨ w = 0x705 ∨ w = 0x715 := by simpa using h
    · exact ⟨.little, 6, by decide, rfl⟩
    · exact ⟨.big, 6, by decide, rfl⟩
    · exact ⟨.little, 7, by decide, rfl⟩
    · exact ⟨.big, 7, by decide, rfl⟩
  · rintro ⟨e, b, hdec, hlegal⟩
    obtain ⟨-, rfl⟩ := wellFormed_encode_of_decode hdec
    obtain rfl | rfl := legal_pad_iff.1 hlegal <;> cases e <;> decide

/-- The column "legal words" of 30_encoding.md R69. -/
theorem mem_legalWords_iff {w : Word} :
    w ∈ [0x1, 0x2, 0x3, 0x4, 0x605, 0x615, 0x705, 0x715] ↔ ∃ i, decode w = .ok i ∧ i.legal = true := by
  constructor
  · intro h
    obtain rfl | rfl | rfl | rfl | hpad : w = 0x1 ∨ w = 0x2 ∨ w = 0x3 ∨ w = 0x4 ∨
        w ∈ [0x605, 0x615, 0x705, 0x715] := by simpa using h
    · exact ⟨.md4Init, by decide, rfl⟩
    · exact ⟨.md4Compress, by decide, rfl⟩
    · exact ⟨.sha1Init, by decide, rfl⟩
    · exact ⟨.sha1Compress, by decide, rfl⟩
    · obtain ⟨e, b, hdec, hlegal⟩ := mem_padWords_iff.1 hpad
      exact ⟨_, hdec, hlegal⟩
  · rintro ⟨i, hdec, hlegal⟩
    obtain ⟨-, hw⟩ := wellFormed_encode_of_decode hdec
    cases i with
    | pad e b => exact List.mem_append_right [0x1, 0x2, 0x3, 0x4] (mem_padWords_iff.2 ⟨e, b, hdec, hlegal⟩)
    | _ => subst hw; decide

/-- The match and mask of PAD's row select the words that decode as PAD, whatever their block size. -/
theorem padMask_iff {w : Word} : w &&& 0xFFFFF0EF = 0x5 ↔ ∃ e b, decode w = .ok (.pad e b) := by
  constructor
  · exact fun h => ⟨_, _, decode_of_pad_mask h⟩
  · rintro ⟨e, b, hdec⟩
    obtain ⟨hwf, rfl⟩ := wellFormed_encode_of_decode hdec
    have hb : b < 16 := of_decide_eq_true hwf
    cases e <;> interval_cases b <;> decide

/-! ### The error code of a command and of a word -/

theorem exec_of_legal {i : Instr} (h : i.legal = true) (s : State) : ∃ t, exec i s = .next t ∧ t.lastErr = 0 := by
  cases i with
  | md4Init => exact ⟨_, exec_md4Init s, rfl⟩
  | md4Compress => exact ⟨_, exec_md4Compress s, rfl⟩
  | sha1Init => exact ⟨_, exec_sha1Init s, rfl⟩
  | sha1Compress => exact ⟨_, exec_sha1Compress s, rfl⟩
  | pad e b => exact ⟨_, exec_pad_supported e (legal_pad_iff.1 h) s, rfl⟩

theorem not_legal_iff {i : Instr} : ¬i.legal = true ↔ ∃ e b, i = .pad e b ∧ b ≠ 6 ∧ b ≠ 7 := by
  cases i <;> simp [Instr.legal]

/-- Settles O15: PAD's check of its block size is the one place where BAD_BLOCK_SIZE is raised, since every legal command
leaves code 0. -/
theorem padRejectsOtherBlockSizes : Obligations.PadRejectsOtherBlockSizes := by
  refine ⟨fun e b s h6 h7 => exec_pad_badBlockSize e (not_or.2 ⟨h6, h7⟩) s, fun i s t ht herr => not_legal_iff.1 ?_⟩
  intro hlegal
  obtain ⟨u, hu, hzero⟩ := exec_of_legal hlegal s
  cases hu.symm.trans ht
  exact absurd (hzero.symm.trans herr) (by decide)

/-- Everything a word can do, by its error code (60_exceptions.md R124). -/
theorem execute_cases (w : Word) (s : State) :
    (∃ i t, decode w = .ok i ∧ i.legal = true ∧ execute w s = .next t ∧ t.lastErr = 0) ∨
    (∃ e b, decode w = .ok (.pad e b) ∧ ¬(Instr.pad e b).legal = true ∧
      execute w s = .next { s with lastErr := 2, sticky := true }) ∨
    (∃ e, decode w = .error e ∧ execute w s = .next { s with lastErr := 1, sticky := true }) := by
  cases hdec : decode w with
  | error e => exact .inr (.inr ⟨e, rfl, execute_illegal hdec s⟩)
  | ok i =>
    rw [execute_of_ok hdec]
    by_cases hlegal : i.legal = true
    · obtain ⟨t, ht, hzero⟩ := exec_of_legal hlegal s
      exact .inl ⟨i, t, rfl, hlegal, ht, hzero⟩
    · obtain ⟨e, b, rfl, h6, h7⟩ := not_legal_iff.1 hlegal
      exact .inr (.inl ⟨e, b, rfl, hlegal, exec_pad_badBlockSize e (not_or.2 ⟨h6, h7⟩) s⟩)

/-- Settles O7: the legal words and the words of PAD are told apart by what they decode to, and so are the outcomes. -/
theorem errorCodeOfEveryWord : Obligations.ErrorCodeOfEveryWord := by
  intro w s
  simp only [mem_legalWords_iff, mem_padWords_iff, padMask_iff]
  obtain ⟨i, t, hdec, hlegal, ht, hzero⟩ | ⟨e, b, hdec, hillegal, ht⟩ | ⟨e, hdec, ht⟩ := execute_cases w s
  · refine ⟨t, ht, iff_of_true hzero ⟨i, hdec, hlegal⟩, iff_of_false (by simp [hzero]) ?_, .inl hzero,
      fun h => absurd hzero h⟩
    rintro ⟨⟨e, b, hpad⟩, hother⟩
    cases hdec.symm.trans hpad
    exact hother ⟨e, b, hpad, hlegal⟩
  · refine ⟨_, ht, iff_of_false (show (2 : BitVec 4) ≠ 0 by decide) ?_, iff_of_true rfl ⟨⟨e, b, hdec⟩, ?_⟩,
      .inr (.inr rfl), fun _ => rfl⟩
    · rintro ⟨i, hi, hlegal⟩
      cases hdec.symm.trans hi
      exact hillegal hlegal
    · rintro ⟨e', b', hpad, hlegal⟩
      cases hdec.symm.trans hpad
      exact hillegal hlegal
  · refine ⟨_, ht, iff_of_false (show (1 : BitVec 4) ≠ 0 by decide) ?_,
      iff_of_false (show (1 : BitVec 4) ≠ 2 by decide) ?_, .inr (.inl rfl), fun _ => rfl⟩
    · rintro ⟨i, hi, -⟩
      cases hdec.symm.trans hi
    · rintro ⟨⟨e', b', hpad⟩, -⟩
      cases hdec.symm.trans hpad

/-- Settles O8: by O7 the state after a failure is the old one with STATUS written, and the read shows both fields. -/
theorem failedCommandsArePrecise : Obligations.FailedCommandsArePrecise := by
  intro w s t ht herr
  obtain ⟨u, hu, -, -, -, hframe⟩ := errorCodeOfEveryWord w s
  cases hu.symm.trans ht
  rw [hframe herr]
  exact ⟨rfl, rfl, rfl, rfl, rfl, rfl, rfl, rfl, rfl, toNat_statusWord t.lastErr true⟩

end Sys2Proof.Machine
end

section
/-! PROOFS. STICKY once set stays set until a reset: no store, no command and no step of another event clears it
(70_reset_and_hazards.md R143). -/

namespace Sys2Proof.Machine

@[simp] theorem busStore_sticky (s : State) (off : Nat) (v : Word) : (busStore s off v).sticky = s.sticky := by
  obtain ⟨_, h⟩ | ⟨-, -, _, h⟩ | ⟨-, -, _, h⟩ | ⟨-, -, _, h⟩ | h := busStore_cases s off v <;> simp [h]

/-- No word written to CMD clears STICKY: a success keeps it (O9) and every failure sets it. -/
theorem execute_keeps_sticky {w : Word} {s t : State} (h : execute w s = .next t) (hs : s.sticky = true) :
    t.sticky = true := by
  cases hdec : decode w with
  | error e => cases (execute_illegal hdec s).symm.trans h; rfl
  | ok i =>
    obtain ⟨u, hu, hstatus, -⟩ := everyCommandReportsInStatus i s
    cases hu.symm.trans ((execute_of_ok hdec s).symm.trans h)
    obtain ⟨-, hkeep⟩ | ⟨-, hset⟩ := hstatus
    · exact hkeep.trans hs
    · exact hset

/-- A step from a state with STICKY set performs a reset or leaves STICKY set. -/
theorem step_reset_or_keeps_sticky {s t : State} (h : step s = .next t) (hs : s.sticky = true) :
    (∃ rest, s.pending = .reset :: rest ∨ ∃ cmd, s.pending = .resetDuring cmd :: rest) ∨ t.sticky = true := by
  obtain ⟨-, rfl⟩ | ⟨e, rest, hp, ⟨rfl, -⟩ | ⟨cmd, rfl, -⟩ | ⟨a, -, -, haccess⟩⟩ := step_cases h
  · exact .inr hs
  · exact .inl ⟨rest, .inl hp⟩
  · exact .inl ⟨rest, .inr ⟨cmd, hp⟩⟩
  · right
    obtain ⟨-, rfl⟩ | ⟨-, -, rfl⟩ | ⟨v, -, -, -, rfl⟩ | ⟨v, -, -, -, hcmd⟩ := haccess
    · exact hs
    · exact hs
    · exact (busStore_sticky _ _ _).trans hs
    · exact execute_keeps_sticky hcmd hs

/-- Settles O38: a step that performs no reset would leave STICKY set. -/
theorem onlyResetClearsSticky : Obligations.OnlyResetClearsSticky := by
  intro s t h hs ht
  exact (step_reset_or_keeps_sticky h hs).resolve_right (by simp [ht])

end Sys2Proof.Machine
end

section
/-! PROOFS. Decoding and encoding are inverse to each other, and the rows of the opcode map (30_encoding.md sections 1 to
4). -/

namespace Sys2Proof.Machine

/-! ### The fields of an encoded PAD -/

theorem endian_bit_le_one (e : Endian) : e.bit ≤ 1 := by cases e <;> decide

theorem endian_bit_injective : Function.Injective Endian.bit := by
  intro e e' h
  cases e <;> cases e' <;> simp_all [Endian.bit]

theorem toNat_encode_pad (e : Endian) {b : Nat} (hb : b < 16) :
    (encode (.pad e b)).toNat = 5 + (e.bit * 2 ^ 4 + b * 2 ^ 8) := by
  have he := endian_bit_le_one e
  rw [encode, BitVec.toNat_ofNat, Nat.mod_eq_of_lt] <;> simp only [Instr.opcode, Instr.operandBits]
  omega

theorem cmdBslog_encode_pad (e : Endian) {b : Nat} (hb : b < 16) : cmdBslog (encode (.pad e b)) = b := by
  have he := endian_bit_le_one e
  rw [cmdBslog, BitVec.extractLsb'_toNat, toNat_encode_pad e hb, Nat.shiftRight_eq_div_pow]
  omega

theorem cmdEndian_encode_pad (e : Endian) {b : Nat} (hb : b < 16) : cmdEndian (encode (.pad e b)) = e := by
  have hbit : (cmdEndian (encode (.pad e b))).bit = e.bit := by
    have he := endian_bit_le_one e
    rw [bit_cmdEndian, BitVec.extractLsb'_toNat, toNat_encode_pad e hb, Nat.shiftRight_eq_div_pow]
    omega
  exact endian_bit_injective hbit

/-! ### The round trip -/

/-- Settles O2: the encoded word has the command's opcode and every reserved bit 0, and PAD's two operands are read back
from their fields. -/
theorem decodeAfterEncode : Obligations.DecodeAfterEncode := by
  intro i hwf
  cases i with
  | md4Init => exact decode_of_plain (by decide) (by decide) (by decide)
  | md4Compress => exact decode_of_plain (by decide) (by decide) (by decide)
  | sha1Init => exact decode_of_plain (by decide) (by decide) (by decide)
  | sha1Compress => exact decode_of_plain (by decide) (by decide) (by decide)
  | pad e b =>
    have hb : b < 16 := of_decide_eq_true hwf
    obtain ⟨hop, hr0, hr1⟩ := Laws.CommandWord.pad e b hwf
    rw [decode_of_pad hop (by simp [hr0, hr1]), cmdEndian_encode_pad e hb, cmdBslog_encode_pad e hb]

/-- Settles O3: the fields of an accepted word are its opcode and its operands, so encoding them gives the word back. -/
theorem encodeAfterDecode : Obligations.EncodeAfterDecode :=
  fun _ _ h => wellFormed_encode_of_decode h

/-- The words that decode to a well-formed command are its one encoding. -/
theorem decode_eq_ok_iff {w : Word} {i : Instr} (hwf : i.wellFormed = true) : decode w = .ok i ↔ w = encode i := by
  constructor
  · exact fun h => (wellFormed_encode_of_decode h).2.symm
  · rintro rfl; exact decodeAfterEncode i hwf

/-! ### The rows of the opcode map (30_encoding.md R69) -/

/-- The mask of a command without operands keeps every bit, and its match is its encoding. -/
theorem decode_eq_ok_iff_fullMask {w : Word} {i : Instr} (h : i.opcode ≠ 5) :
    decode w = .ok i ↔ w &&& 0xFFFFFFFF = encode i := by
  have hmask : w &&& 0xFFFFFFFF = w := BitVec.and_allOnes
  rw [hmask]
  exact decode_eq_ok_iff (wellFormed_of_opcode_ne_pad h).1

/-- The operands of a word that decodes as PAD are its bit 4 and its bits [11:8]. -/
theorem pad_operands_of_decode {w : Word} {e : Endian} {b : Nat} (h : decode w = .ok (.pad e b)) :
    (e = .big ↔ w.getLsbD 4 = true) ∧ b = w.toNat / 2 ^ 8 % 2 ^ 4 := by
  obtain ⟨-, hne, -⟩ | ⟨-, -, -, hi⟩ := decode_cases h
  · exact absurd rfl hne
  · obtain ⟨rfl, rfl⟩ := Instr.pad.inj hi
    constructor
    · rw [cmdEndian_eq]; cases w.getLsbD 4 <;> simp
    · rw [cmdBslog, BitVec.extractLsb'_toNat, Nat.shiftRight_eq_div_pow]

/-- Settles O4: each row's match is the encoding of its command under the row's mask. -/
theorem decodeFollowsMatchAndMask : Obligations.DecodeFollowsMatchAndMask := fun _ =>
  ⟨decode_eq_ok_iff_fullMask (i := .md4Init) (by decide), decode_eq_ok_iff_fullMask (i := .md4Compress) (by decide),
    decode_eq_ok_iff_fullMask (i := .sha1Init) (by decide), decode_eq_ok_iff_fullMask (i := .sha1Compress) (by decide),
    padMask_iff.symm, fun _ _ => pad_operands_of_decode⟩

/-- Settles O1: each word of the column is the encoding of its command, which decodes to it by O2. -/
theorem tableWordsDecode : Obligations.TableWordsDecode := by
  have row {w : Word} {i : Instr} (hwf : i.wellFormed = true) (hw : w = encode i) : decode w = .ok i :=
    (decode_eq_ok_iff hwf).2 hw
  exact ⟨row rfl (by decide), row rfl (by decide), row rfl (by decide), row rfl (by decide), row rfl (by decide),
    row rfl (by decide), row rfl (by decide), row rfl (by decide), row rfl (by decide)⟩

end Sys2Proof.Machine
end

section
/-! PROOFS. The step on each kind of event: refused accesses, accesses outside the window, command words, resets, and the
runs that never stop (20_memory.md section 3, 70_reset_and_hazards.md section 1). -/

namespace Sys2Proof.Machine

/-! ### Accesses the core does not perform -/

theorem BusAccess.not_inWindow_iff (a : BusAccess) : a.inWindow = false ↔ a.offset < 0 ∨ 0x200 ≤ a.offset := by
  rw [← Bool.not_eq_true, a.inWindow_iff]
  omega

/-- Settles O26: of an access in the window that the core does not accept, only the response is left. -/
theorem refusedAccessChangesNothing : Obligations.RefusedAccessChangesNothing := by
  intro s a rest hlo hhi hbad hp
  have hw : a.inWindow = true := a.inWindow_iff.2 ⟨hlo, hhi⟩
  have ha : a.accepted = false := by
    rw [← Bool.not_eq_true, a.accepted_iff]
    exact not_and_or.2 hbad
  exact (step_of_event hp).trans (hostAccess_refused hw ha _)

/-- Settles O27: the window decode comes first, whatever the access. -/
theorem outsideWindowIsRefused : Obligations.OutsideWindowIsRefused := fun _ a _ hout hp =>
  (step_of_event hp).trans (hostAccess_outside (a.not_inWindow_iff.2 hout) _)

/-- Settles O28: the offset is the distance from `BASE`. -/
theorem windowIsBasePlusOffset : Obligations.WindowIsBasePlusOffset := by
  intro base addr width op
  rw [BusAccess.inWindow_iff]
  dsimp only [offsetOf]
  omega

/-! ### Command words -/

/-- A write to CMD executes its word (20_memory.md R56). -/
theorem step_of_cmd {s : State} {w : Word} {rest : List HostEvent} (hp : s.pending = cmdWrite w :: rest) :
    step s = execute w ((s.setPending rest).respond .written) :=
  step_of_write (off := 0x000) (by decide) (by decide) hp

theorem decode_of_decodeTableWord {w : Nat} {i : Instr} (h : decodeTableWord 32 w = some i) :
    decode (BitVec.ofNat 32 (w % 2 ^ 32)) = .ok i := by
  rw [decodeTableWord, if_pos (Nat.mod_lt w (by decide))] at h
  cases hdec : decode (BitVec.ofNat 32 (w % 2 ^ 32)) with
  | error e => rw [hdec] at h; cases h
  | ok j => rw [hdec] at h; cases h; rfl

/-- Settles O29: both forms are a CMD write at the head of the events. -/
theorem stepRunsDecodedCommand : Obligations.StepRunsDecodedCommand :=
  ⟨fun _ _ _ _ hp hdec => (step_of_cmd hp).trans (execute_of_ok hdec _),
    fun _ _ _ h => (step_of_cmd rfl).trans (execute_of_ok (decode_of_decodeTableWord h) _)⟩

/-- Settles O30: with no event a step does nothing, and a first CMD write finds the reset state. -/
theorem idleUntilFirstAccess : Obligations.IdleUntilFirstAccess :=
  ⟨step_of_idle rfl, fun _ => step_of_idle,
    fun w rest => step_of_cmd (s := State.reset.setPending (cmdWrite w :: rest)) rfl⟩

/-! ### Resets -/

/-- Settles O34: the values are those of R39, and the host's side stays. -/
theorem resetRestoresEveryPiece : Obligations.ResetRestoresEveryPiece := fun _ _ hp => step_of_event hp

/-- Settles O35: the step does not look at the command the reset abandons. -/
theorem resetAbandonsRunningCommand : Obligations.ResetAbandonsRunningCommand := fun _ _ _ hp =>
  ⟨_, step_of_event hp, by simp [State.SameCore], rfl, rfl⟩

/-! ### Which steps answer a next state, and runs (60_exceptions.md section 1) -/

/-- Every command answers a next state and takes no event of its own. -/
theorem execute_next (w : Word) (s : State) : ∃ t, execute w s = .next t ∧ t.pending = s.pending := by
  obtain ⟨t, ht, hpending, -⟩ := execute_hostUpdate w s
  exact ⟨t, ht, hpending⟩

@[simp] theorem busStore_pending (s : State) (off : Nat) (v : Word) : (busStore s off v).pending = s.pending := by
  obtain ⟨_, h⟩ | ⟨-, -, _, h⟩ | ⟨-, -, _, h⟩ | ⟨-, -, _, h⟩ | h := busStore_cases s off v <;> simp [h]

theorem acceptedAccess_next (a : BusAccess) (s : State) :
    ∃ t, acceptedAccess a s = .next t ∧ t.pending = s.pending := by
  unfold acceptedAccess busWrite
  cases a.op with
  | read => exact ⟨_, rfl, rfl⟩
  | write v =>
    dsimp only
    split
    · exact execute_next v _
    · exact ⟨_, rfl, busStore_pending _ _ v⟩

/-- An event in the window is performed, and the events after it stay. -/
theorem hostEvent_next {e : HostEvent} (h : e.inWindow = true) (s : State) :
    ∃ t, hostEvent e s = .next t ∧ t.pending = s.pending := by
  cases e with
  | reset => exact ⟨_, rfl, rfl⟩
  | resetDuring cmd => exact ⟨_, rfl, rfl⟩
  | access a =>
    change ∃ t, hostAccess a s = .next t ∧ _
    cases ha : a.accepted with
    | false => exact ⟨_, hostAccess_refused h ha s, rfl⟩
    | true => rw [hostAccess_accepted h ha]; exact acceptedAccess_next a s

/-- Settles O31: only an access outside the window gives no next state. -/
theorem stepAnswersUnlessOutsideWindow : Obligations.StepAnswersUnlessOutsideWindow := by
  intro s
  cases hp : s.pending with
  | nil => exact .inl ⟨s, step_of_idle hp⟩
  | cons e rest =>
    by_cases hin : e.inWindow = true
    · obtain ⟨t, ht, -⟩ := hostEvent_next hin (s.setPending rest)
      exact .inl ⟨t, (step_of_event hp).trans ht⟩
    · cases e with
      | reset => exact absurd rfl hin
      | resetDuring cmd => exact absurd rfl hin
      | access a =>
        have hout := a.not_inWindow_iff.1 (Bool.eq_false_iff.2 hin)
        exact .inr ⟨a, rest, rfl, hout, outsideWindowIsRefused s a rest hout hp⟩

/-- A step from a safe state answers a safe state. -/
theorem step_of_safe {s : State} (hs : s.Safe) : ∃ t, step s = .next t ∧ t.Safe := by
  cases hp : s.pending with
  | nil => exact ⟨s, step_of_idle hp, hs⟩
  | cons e rest =>
    have hall : ∀ e' ∈ e :: rest, e'.inWindow = true := hp ▸ hs
    obtain ⟨t, ht, hpending⟩ := hostEvent_next (hall e List.mem_cons_self) (s.setPending rest)
    refine ⟨t, (step_of_event hp).trans ht, fun e' he' => hall e' (List.mem_cons_of_mem e ?_)⟩
    rwa [hpending] at he'

/-- Settles O32, by induction on the number of steps. -/
theorem safeRunsNeverStop : Obligations.SafeRunsNeverStop := by
  intro s n hs
  induction n generalizing s with
  | zero => exact ⟨s, run_zero s, hs⟩
  | succ n ih =>
    obtain ⟨t, ht, htsafe⟩ := step_of_safe hs
    rw [run_succ n ht]
    exact ih t htsafe

end Sys2Proof.Machine
end

section
/-! PROOFS. What a step can do to the core: the invariant of the reachable states, and the writers of each piece of state
(10_state.md sections 3 to 6). -/

namespace Sys2Proof.Machine

/-! ### The step as the core sees it -/

/-- Everything a step that answers a next state can have done to the core. -/
theorem step_effects {s t : State} (h : step s = .next t) :
    s.SameCore t ∨
    ∃ e rest, s.pending = e :: rest ∧
      (((e = .reset ∨ ∃ cmd, e = .resetDuring cmd) ∧ State.reset.SameCore t) ∨
       (∃ (off : Nat) (v : Word) (u : State), off % 4 = 0 ∧
         e = .access { offset := off, width := 32, op := .write v } ∧ s.SameCore u ∧ t = busStore u off v) ∨
       (∃ (cmd : Word) (u : State), e = cmdWrite cmd ∧ s.SameCore u ∧ execute cmd u = .next t)) := by
  have taken (rest : List HostEvent) (r : BusResponse) : s.SameCore ((s.setPending rest).respond r) :=
    (setPending_sameCore s rest).trans (respond_sameCore _ r)
  obtain ⟨-, rfl⟩ | ⟨e, rest, hp, ⟨rfl, rfl⟩ | ⟨cmd, rfl, rfl⟩ | ⟨a, rfl, hw, haccess⟩⟩ := step_cases h
  · exact .inl (State.SameCore.refl _)
  · exact .inr ⟨_, rest, hp, .inl ⟨.inl rfl, by simp [State.SameCore]⟩⟩
  · exact .inr ⟨_, rest, hp, .inl ⟨.inr ⟨cmd, rfl⟩, by simp [State.SameCore]⟩⟩
  · have hwrite {v : Word} (ha : a.accepted = true) (hv : a.op = .write v) :
        a.offset.toNat % 4 = 0 ∧ a = { offset := a.offset.toNat, width := 32, op := .write v } := by
      obtain ⟨hwidth, halign⟩ := a.accepted_iff.1 ha
      have hoff := Int.toNat_of_nonneg (a.inWindow_iff.1 hw).1
      refine ⟨by omega, ?_⟩
      rw [hoff, ← hwidth, ← hv]
    obtain ⟨-, rfl⟩ | ⟨-, -, rfl⟩ | ⟨v, ha, hv, -, rfl⟩ | ⟨v, ha, hv, h0, hcmd⟩ := haccess
    · exact .inl (taken rest _)
    · exact .inl (taken rest _)
    · obtain ⟨halign, ha⟩ := hwrite ha hv
      exact .inr ⟨_, rest, hp, .inr (.inl ⟨_, v, _, halign, congrArg _ ha, taken rest _, rfl⟩)⟩
    · obtain ⟨-, ha⟩ := hwrite ha hv
      rw [h0] at ha
      exact .inr ⟨_, rest, hp, .inr (.inr ⟨v, _, congrArg _ ha, taken rest _, hcmd⟩)⟩

/-- Everything a word written to CMD can do, with the command it decodes to (30_encoding.md R70). -/
theorem execute_effects {w : Word} {s t : State} (h : execute w s = .next t) :
    ((decode w = .ok .md4Init ∨ decode w = .ok .md4Compress) ∧ ∃ h, t = succeed (s.setH4 h)) ∨
    ((decode w = .ok .sha1Init ∨ decode w = .ok .sha1Compress) ∧ ∃ h, t = succeed (s.setH5 h)) ∨
    (∃ e b, decode w = .ok (.pad e b) ∧ (b = 6 ∨ b = 7) ∧ t = succeed (writePadding e (blockSize b) s)) ∨
    ∃ code, (code = .illegalCmd ∨ code = .badBlockSize) ∧ t = fail code s := by
  cases hdec : decode w with
  | error e =>
    rw [execute_of_error hdec] at h
    cases h
    exact .inr (.inr (.inr ⟨_, .inl rfl, rfl⟩))
  | ok i =>
    rw [execute_of_ok hdec] at h
    obtain ⟨rfl, ht⟩ | ⟨rfl, ht⟩ | ⟨rfl, ht⟩ | ⟨rfl, ht⟩ | ⟨e, b, rfl, hb, ht⟩ | ⟨e, b, rfl, hb, ht⟩ := exec_cases i s
    all_goals cases ht.symm.trans h
    · exact .inl ⟨.inl rfl, _, rfl⟩
    · exact .inl ⟨.inr rfl, _, rfl⟩
    · exact .inr (.inl ⟨.inl rfl, _, rfl⟩)
    · exact .inr (.inl ⟨.inr rfl, _, rfl⟩)
    · exact .inr (.inr (.inl ⟨e, b, rfl, hb, rfl⟩))
    · exact .inr (.inr (.inr ⟨_, .inr rfl, rfl⟩))

/-! ### What a store leaves -/

@[simp] theorem busStore_lastErr (s : State) (off : Nat) (v : Word) : (busStore s off v).lastErr = s.lastErr := by
  obtain ⟨_, h⟩ | ⟨-, -, _, h⟩ | ⟨-, -, _, h⟩ | ⟨-, -, _, h⟩ | h := busStore_cases s off v <;> simp [h]

@[simp] theorem busStore_padbuf (s : State) (off : Nat) (v : Word) : (busStore s off v).padbuf = s.padbuf := by
  obtain ⟨_, h⟩ | ⟨-, -, _, h⟩ | ⟨-, -, _, h⟩ | ⟨-, -, _, h⟩ | h := busStore_cases s off v <;> simp [h]

@[simp] theorem busStore_padlen (s : State) (off : Nat) (v : Word) : (busStore s off v).padlen = s.padlen := by
  obtain ⟨_, h⟩ | ⟨-, -, _, h⟩ | ⟨-, -, _, h⟩ | ⟨-, -, _, h⟩ | h := busStore_cases s off v <;> simp [h]

/-- A store that changes H4 is one to MD4_A to MD4_D. -/
theorem offset_of_busStore_h4 {s : State} {off : Nat} {v : Word} (h : (busStore s off v).h4 ≠ s.h4) :
    0x020 ≤ off ∧ off ≤ 0x02C := by
  obtain ⟨_, hs⟩ | ⟨hlo, hhi, -⟩ | ⟨-, -, _, hs⟩ | ⟨-, -, _, hs⟩ | hs := busStore_cases s off v
  case inr.inl => exact ⟨hlo, hhi⟩
  all_goals simp [hs] at h

/-- A store that changes H5 is one to SHA1_H0 to SHA1_H4. -/
theorem offset_of_busStore_h5 {s : State} {off : Nat} {v : Word} (h : (busStore s off v).h5 ≠ s.h5) :
    0x030 ≤ off ∧ off ≤ 0x040 := by
  obtain ⟨_, hs⟩ | ⟨-, -, _, hs⟩ | ⟨hlo, hhi, -⟩ | ⟨-, -, _, hs⟩ | hs := busStore_cases s off v
  case inr.inr.inl => exact ⟨hlo, hhi⟩
  all_goals simp [hs] at h

/-- A store that changes BLK is one to a word of BLK. -/
theorem offset_of_busStore_blk {s : State} {off : Nat} {v : Word} (h : (busStore s off v).blk ≠ s.blk) :
    0x080 ≤ off ∧ off ≤ 0x0BC := by
  obtain ⟨_, hs⟩ | ⟨-, -, _, hs⟩ | ⟨-, -, _, hs⟩ | ⟨hlo, hhi, -⟩ | hs := busStore_cases s off v
  case inr.inr.inr.inl => exact ⟨hlo, hhi⟩
  all_goals simp [hs] at h

/-- A store that changes LEN is one to LEN_LO or LEN_HI. -/
theorem offset_of_busStore_len {s : State} {off : Nat} {v : Word} (h : (busStore s off v).len ≠ s.len) :
    off = 0x008 ∨ off = 0x00C := by
  by_contra hoff
  obtain ⟨hlo, hhi⟩ := not_or.1 hoff
  apply h
  unfold busStore
  rw [if_neg hlo, if_neg hhi]
  split_ifs <;> rfl

/-- An aligned offset between two aligned offsets is a whole number of words after the first. -/
theorem exists_wordIndex {off lo n : Nat} (halign : off % 4 = 0) (hlo4 : lo % 4 = 0)
    (h : lo ≤ off ∧ off < lo + 4 * n) : ∃ i < n, off = lo + 4 * i :=
  ⟨(off - lo) / 4, by omega, by omega⟩

/-! ### The invariant of the reachable states (10_state.md R40, R41) -/

/-- The half of the invariant that speaks of PADBUF and PADLEN. -/
def State.PaddingInv (s : State) : Prop :=
  (s.padlen.toNat = 0 ∨ (9 ≤ s.padlen.toNat ∧ s.padlen.toNat ≤ 136)) ∧
  (0 < s.padlen.toNat → s.padbuf[0] = 0x80) ∧
  ∀ i : Fin 136, s.padlen.toNat ≤ i.val → s.padbuf[i.val] = 0x00

/-- The half of the invariant that speaks of STATUS. -/
def State.StatusInv (s : State) : Prop :=
  (s.lastErr = 0 ∨ s.lastErr = 1 ∨ s.lastErr = 2) ∧ (s.lastErr ≠ 0 → s.sticky = true)

theorem State.inv_iff (s : State) : s.Inv ↔ s.PaddingInv ∧ s.StatusInv := by
  unfold State.Inv State.PaddingInv State.StatusInv
  tauto

theorem State.PaddingInv.of_eq {s t : State} (hs : s.PaddingInv) (hbuf : t.padbuf = s.padbuf)
    (hlen : t.padlen = s.padlen) : t.PaddingInv := by
  unfold State.PaddingInv
  rw [hbuf, hlen]
  exact hs

theorem State.StatusInv.of_eq {s t : State} (hs : s.StatusInv) (herr : t.lastErr = s.lastErr)
    (hsticky : t.sticky = s.sticky) : t.StatusInv := by
  unfold State.StatusInv
  rw [herr, hsticky]
  exact hs

theorem State.Inv.of_sameCore {s t : State} (hs : s.Inv) (h : s.SameCore t) : t.Inv := by
  obtain ⟨-, -, -, -, hbuf, hlen, herr, hsticky⟩ := h
  obtain ⟨hpad, hstatus⟩ := s.inv_iff.1 hs
  exact t.inv_iff.2 ⟨hpad.of_eq hbuf hlen, hstatus.of_eq herr hsticky⟩

theorem getElem_padBuffer (P : List Byte) {i : Nat} (h : i < 136) : (padBuffer P)[i] = byteAt P i := by simp [padBuffer]

/-- A successful PAD establishes its half of the invariant, whatever was in PADBUF before. -/
theorem writePadding_paddingInv (e : Endian) {b : Nat} (hb : b = 6 ∨ b = 7) (s : State) :
    (writePadding e (blockSize b) s).PaddingInv := by
  have hle := pad_length_le s.len.toNat e hb
  have hge : 9 ≤ (pad s.len.toNat (blockSize b) e).length := by rw [pad_length]; omega
  have hlen : (writePadding e (blockSize b) s).padlen.toNat = (pad s.len.toNat (blockSize b) e).length := by
    rw [writePadding_padlen, BitVec.toNat_ofNat, Nat.mod_eq_of_lt (by omega)]
  unfold State.PaddingInv
  rw [hlen, writePadding_padbuf]
  refine ⟨.inr ⟨hge, hle⟩, fun _ => ?_, fun i hi => ?_⟩
  · rw [getElem_padBuffer _ (by decide), byteAt_pad_marker]
  · rw [getElem_padBuffer _ i.isLt, byteAt_of_length_le hi]

/-- Every command leaves STATUS as the invariant asks: code 0, or code 1 or 2 with STICKY set. -/
theorem execute_statusInv {w : Word} {s t : State} (h : execute w s = .next t) : t.StatusInv := by
  obtain ⟨-, _, rfl⟩ | ⟨-, _, rfl⟩ | ⟨_, _, -, -, rfl⟩ | ⟨_, rfl | rfl, rfl⟩ := execute_effects h
  all_goals simp [State.StatusInv, ErrCode.value]

theorem execute_keeps_paddingInv {w : Word} {s t : State} (h : execute w s = .next t) (hs : s.PaddingInv) :
    t.PaddingInv := by
  obtain ⟨-, _, rfl⟩ | ⟨-, _, rfl⟩ | ⟨e, b, -, hb, rfl⟩ | ⟨_, -, rfl⟩ := execute_effects h
  · exact hs.of_eq rfl rfl
  · exact hs.of_eq rfl rfl
  · exact (writePadding_paddingInv e hb s).of_eq (succeed_padbuf _) (succeed_padlen _)
  · exact hs.of_eq rfl rfl

theorem busStore_keeps_inv {s : State} (hs : s.Inv) (off : Nat) (v : Word) : (busStore s off v).Inv := by
  obtain ⟨hpad, hstatus⟩ := s.inv_iff.1 hs
  exact (State.inv_iff _).2 ⟨hpad.of_eq (busStore_padbuf s off v) (busStore_padlen s off v),
    hstatus.of_eq (busStore_lastErr s off v) (busStore_sticky s off v)⟩

/-- Settles O36: PADLEN and LASTERR are 0 at reset, and every byte of PADBUF is 0x00. -/
theorem invariantHoldsAtReset : Obligations.InvariantHoldsAtReset := by
  refine ⟨.inl rfl, fun h => absurd h (by decide), .inl rfl, fun h => absurd rfl h, fun i _ => ?_⟩
  simp

/-- Settles O37: a reset starts the invariant anew, stores and reads do not touch its fields, and a command keeps each
half. -/
theorem everyStepKeepsInvariant : Obligations.EveryStepKeepsInvariant := by
  intro s t hs h
  obtain hsame | ⟨e, rest, -, ⟨-, hreset⟩ | ⟨off, v, u, -, -, hu, rfl⟩ | ⟨cmd, u, -, hu, hcmd⟩⟩ := step_effects h
  · exact hs.of_sameCore hsame
  · exact State.Inv.of_sameCore invariantHoldsAtReset hreset
  · exact busStore_keeps_inv (hs.of_sameCore hu) off v
  · obtain ⟨hpad, -⟩ := u.inv_iff.1 (hs.of_sameCore hu)
    exact t.inv_iff.2 ⟨execute_keeps_paddingInv hcmd hpad, execute_statusInv hcmd⟩

/-! ### The writers of a piece of state -/

/-- If a step changes the piece `f` of the core, its event is a reset, or it is one of those `P` names: `P` has to hold of
the stores that change `f` and of the CMD writes that do. -/
theorem writers_of_step {α : Type} {f : State → α} {P : HostEvent → Prop}
    (hcore : ∀ s t : State, s.SameCore t → f t = f s)
    (hstore : ∀ (u : State) (off : Nat) (v : Word), off % 4 = 0 → f (busStore u off v) ≠ f u →
      P (.access { offset := off, width := 32, op := .write v }))
    (hcmd : ∀ (u t : State) (cmd : Word), execute cmd u = .next t → f t ≠ f u → P (cmdWrite cmd))
    {s t : State} (h : step s = .next t) (hne : f t ≠ f s) :
    ∃ e rest, s.pending = e :: rest ∧ (e = .reset ∨ (∃ cmd, e = .resetDuring cmd) ∨ P e) := by
  obtain hsame | ⟨e, rest, hp, ⟨hreset, -⟩ | ⟨off, v, u, halign, rfl, hu, rfl⟩ | ⟨cmd, u, rfl, hu, hexec⟩⟩ :=
    step_effects h
  · exact absurd (hcore s t hsame) hne
  · exact ⟨e, rest, hp, or_assoc.1 (.inl hreset)⟩
  · rw [← hcore s u hu] at hne
    exact ⟨_, rest, hp, .inr (.inr (hstore u off v halign hne))⟩
  · rw [← hcore s u hu] at hne
    exact ⟨_, rest, hp, .inr (.inr (hcmd u t cmd hexec hne))⟩

/-- Settles O39: a store leaves both fields. -/
theorem onlyCommandsWriteStatus : Obligations.OnlyCommandsWriteStatus := by
  intro s t h hne
  refine writers_of_step (f := fun u => (u.lastErr, u.sticky)) ?core ?store ?cmd h ?ne
  case core => rintro s t ⟨-, -, -, -, -, -, herr, hsticky⟩; exact Prod.ext herr hsticky
  case store => intro u off v _ hu; simp at hu
  case cmd => exact fun _ _ cmd _ _ => ⟨cmd, rfl⟩
  case ne => exact fun heq => hne.elim (· (Prod.ext_iff.1 heq).1) (· (Prod.ext_iff.1 heq).2)

/-- The words that change H4. -/
theorem word_of_execute_h4 {w : Word} {s t : State} (h : execute w s = .next t) (hne : t.h4 ≠ s.h4) :
    w = 0x1 ∨ w = 0x2 := by
  obtain ⟨hdec, -⟩ | ⟨-, _, rfl⟩ | ⟨_, _, -, -, rfl⟩ | ⟨_, -, rfl⟩ := execute_effects h
  case inl => exact hdec.imp (decode_eq_ok_iff rfl).1 (decode_eq_ok_iff rfl).1
  all_goals simp at hne

/-- The words that change H5. -/
theorem word_of_execute_h5 {w : Word} {s t : State} (h : execute w s = .next t) (hne : t.h5 ≠ s.h5) :
    w = 0x3 ∨ w = 0x4 := by
  obtain ⟨-, _, rfl⟩ | ⟨hdec, -⟩ | ⟨_, _, -, -, rfl⟩ | ⟨_, -, rfl⟩ := execute_effects h
  case inr.inl => exact hdec.imp (decode_eq_ok_iff rfl).1 (decode_eq_ok_iff rfl).1
  all_goals simp at hne

/-- Settles O40, for each chaining state from its registers and its unit's commands. -/
theorem writersOfChainingState : Obligations.WritersOfChainingState := by
  intro s t h
  refine ⟨fun hne => writers_of_step (f := State.h4) ?core4 ?store4 ?cmd4 h hne,
    fun hne => writers_of_step (f := State.h5) ?core5 ?store5 ?cmd5 h hne⟩
  case core4 => rintro s t ⟨h4, -⟩; exact h4
  case core5 => rintro s t ⟨-, h5, -⟩; exact h5
  case store4 =>
    intro u off v halign hu
    have hoff := offset_of_busStore_h4 hu
    obtain ⟨i, hi, rfl⟩ := exists_wordIndex (lo := 0x020) (n := 4) halign rfl (by omega)
    exact .inl ⟨i, hi, v, rfl⟩
  case store5 =>
    intro u off v halign hu
    have hoff := offset_of_busStore_h5 hu
    obtain ⟨i, hi, rfl⟩ := exists_wordIndex (lo := 0x030) (n := 5) halign rfl (by omega)
    exact .inl ⟨i, hi, v, rfl⟩
  case cmd4 => exact fun u t cmd hcmd hu => .inr ⟨cmd, rfl, word_of_execute_h4 hcmd hu⟩
  case cmd5 => exact fun u t cmd hcmd hu => .inr ⟨cmd, rfl, word_of_execute_h5 hcmd hu⟩

/-- No command writes BLK or LEN. -/
theorem execute_blk_len {w : Word} {s t : State} (h : execute w s = .next t) : t.blk = s.blk ∧ t.len = s.len := by
  obtain ⟨-, _, rfl⟩ | ⟨-, _, rfl⟩ | ⟨_, _, -, -, rfl⟩ | ⟨_, -, rfl⟩ := execute_effects h
  all_goals simp

/-- Settles O41: no command writes either field, and a store that does has its register's offset. -/
theorem writersOfBlkAndLen : Obligations.WritersOfBlkAndLen := by
  intro s t h
  refine ⟨fun hne => writers_of_step (f := State.blk) ?core ?store ?cmd h hne,
    fun hne => writers_of_step (f := State.len) ?coreLen ?storeLen ?cmdLen h hne⟩
  case core => rintro s t ⟨-, -, hblk, -⟩; exact hblk
  case coreLen => rintro s t ⟨-, -, -, hlen, -⟩; exact hlen
  case store =>
    intro u off v halign hu
    have hoff := offset_of_busStore_blk hu
    obtain ⟨j, hj, rfl⟩ := exists_wordIndex (lo := 0x080) (n := 16) halign rfl (by omega)
    exact ⟨j, hj, v, rfl⟩
  case storeLen =>
    intro u off v _ hu
    obtain rfl | rfl := offset_of_busStore_len hu
    · exact ⟨v, .inl rfl⟩
    · exact ⟨v, .inr rfl⟩
  case cmd => exact fun u t cmd hcmd hu => absurd (execute_blk_len hcmd).1 hu
  case cmdLen => exact fun u t cmd hcmd hu => absurd (execute_blk_len hcmd).2 hu

/-- The words that change PADBUF or PADLEN. -/
theorem word_of_execute_padding {w : Word} {s t : State} (h : execute w s = .next t)
    (hne : (t.padbuf, t.padlen) ≠ (s.padbuf, s.padlen)) : w = 0x605 ∨ w = 0x615 ∨ w = 0x705 ∨ w = 0x715 := by
  obtain ⟨-, _, rfl⟩ | ⟨-, _, rfl⟩ | ⟨e, b, hdec, hb, -⟩ | ⟨_, -, rfl⟩ := execute_effects h
  case inr.inr.inl =>
    have hmem : w ∈ [0x605, 0x615, 0x705, 0x715] := mem_padWords_iff.2 ⟨e, b, hdec, legal_pad_iff.2 hb⟩
    simpa using hmem
  all_goals simp at hne

/-- Settles O42: a store leaves both fields, and so does every command but a PAD that succeeds. -/
theorem writersOfPadding : Obligations.WritersOfPadding := by
  intro s t h hne
  refine writers_of_step (f := fun u => (u.padbuf, u.padlen)) ?core ?store ?cmd h ?ne
  case core => rintro s t ⟨-, -, -, -, hbuf, hlen, -⟩; exact Prod.ext hbuf hlen
  case store => intro u off v _ hu; simp at hu
  case cmd => exact fun u t cmd hcmd hu => ⟨cmd, rfl, word_of_execute_padding hcmd hu⟩
  case ne => exact fun heq => hne.elim (· (Prod.ext_iff.1 heq).1) (· (Prod.ext_iff.1 heq).2)

end Sys2Proof.Machine
end

section
/-! PROOFS. The properties of the padding function (40_padding.md R82), the rotating form of MD4's steps (41_md4.md R96),
and the round functions that SHA-1 shares with MD4 (42_sha1.md R104). -/

namespace Sys2Proof.Machine

/-! ### The padding function -/

/-- The filler makes message, marker, filler and field a whole number of blocks. -/
theorem add_pad_length_mod (L : Nat) {bs : Nat} (hbs : 0 < bs) (e : Endian) : (L + (pad L bs e).length) % bs = 0 := by
  have hr : (L + 9) % bs < bs := Nat.mod_lt _ hbs
  have hdiv : bs * ((L + 9) / bs) + (L + 9) % bs = L + 9 := Nat.div_add_mod _ _
  rw [pad_length, zerosToPad]
  split
  · have hsum : L + (bs - (L + 9) % bs + 9) = bs * ((L + 9) / bs + 1) := by rw [Nat.mul_succ]; omega
    rw [hsum, Nat.mul_mod_right]
  · have hsum : L + (0 + 9) = bs * ((L + 9) / bs) := by omega
    rw [hsum, Nat.mul_mod_right]

/-- Settles O18: the alignment holds for every block size, and the rest is arithmetic of the remainder. -/
theorem paddingProperties : Obligations.PaddingProperties := by
  intro L bs e hbs
  have hpos : 0 < bs := by omega
  have hz := zerosToPad_lt L hpos
  have hlen := pad_length L bs e
  refine ⟨add_pad_length_mod L hpos e, rfl, hz, ?none, ?most, by omega, by omega⟩
  all_goals
    unfold zerosToPad
    obtain rfl | rfl := hbs <;> split <;> omega

theorem zerosToPad_congr {L L' bs : Nat} (h : L % bs = L' % bs) : zerosToPad L bs = zerosToPad L' bs := by
  have hr : (L + 9) % bs = (L' + 9) % bs := Nat.ModEq.add_right 9 h
  rw [zerosToPad, zerosToPad, hr]

theorem lengthField_congr {L L' : Nat} (h : bitlen L = bitlen L') (e : Endian) : lengthField L e = lengthField L' e := by
  cases e <;> simp only [lengthField, h]

/-- The big-endian length field is the little-endian one in the other order. -/
theorem lengthField_big (L : Nat) : lengthField L .big = (lengthField L .little).reverse :=
  beBytes64_eq_reverse (bitlen L)

/-- Settles O19: the filler depends on the residue and the field on the bit length, and the two byte orders differ in the
field alone. -/
theorem paddingDependsOnResidueAndBitLength : Obligations.PaddingDependsOnResidueAndBitLength := by
  intro L L' bs e _
  refine ⟨fun hres hbits => ?_, ?_⟩
  · rw [pad, pad, zerosToPad_congr hres, lengthField_congr hbits]
  · have hlen : ([0x80] ++ List.replicate (zerosToPad L bs) 0x00 : List Byte).length = 1 + zerosToPad L bs := by
      simp [Nat.add_comm]
    rw [pad, pad, ← hlen, List.take_left, List.drop_left, lengthField_big]

/-! ### The rotating form of MD4's steps -/

/-- Four steps of the rotating form bring every word back to its own place (41_md4.md R96). -/
theorem md4StepRotating_four (X : List Word) (w : Md4Work) (m : Nat) :
    md4StepRotating X (md4StepRotating X (md4StepRotating X (md4StepRotating X w (4 * m)) (4 * m + 1)) (4 * m + 2))
        (4 * m + 3) =
      md4Step X (md4Step X (md4Step X (md4Step X w (4 * m)) (4 * m + 1)) (4 * m + 2)) (4 * m + 3) := by
  simp [md4StepRotating, md4Step_eq, Nat.add_mod]

/-- Settles O20, by induction on the groups of four steps. -/
theorem md4RotatingFormAgrees : Obligations.Md4RotatingFormAgrees := by
  intro X w m
  induction m with
  | zero => rfl
  | succ m ih =>
    have h4 : 4 * (m + 1) = 4 * m + 3 + 1 := rfl
    simp only [h4, md4RoundsRotating_succ, md4Rounds_succ, ih, md4StepRotating_four]

/-! ### The functions SHA-1 shares with MD4 -/

/-- Settles O22: in each bit at most one of the two terms of the first function is set, and of the three terms of the second
either none, one or all are, so exclusive or and inclusive or agree. -/
theorem sha1FunctionsAreMd4Functions : Obligations.Sha1FunctionsAreMd4Functions := by
  intro b c d
  refine ⟨BitVec.eq_of_getLsbD_eq fun i hi => ?_, BitVec.eq_of_getLsbD_eq fun i hi => ?_⟩
  · rw [getLsbD_md4F b c d hi]
    simp only [sha1Fn, BitVec.getLsbD_xor, BitVec.getLsbD_and, BitVec.getLsbD_not, hi]
    cases b.getLsbD i <;> simp
  · rw [getLsbD_md4G]
    simp only [sha1Fn, BitVec.getLsbD_xor, BitVec.getLsbD_and]
    generalize b.getLsbD i = p, c.getLsbD i = q, d.getLsbD i = r
    revert p q r
    decide

end Sys2Proof.Machine
end

section
/-! PROOFS. A read of a writable register after a store to one (20_memory.md section 4). -/

namespace Sys2Proof.Machine

/-! ### A word and its four byte lanes -/

theorem byteAt_toList {n : Nat} (b : Vector Byte n) (i : Nat) : byteAt b.toList i = b[i]?.getD 0x00 := by
  simp [byteAt]

/-- A word read through the byte lanes depends on its four bytes alone. -/
theorem le32_congr {B B' : List Byte} {i i' : Nat} (h : ∀ k < 4, byteAt B (i + k) = byteAt B' (i' + k)) :
    le32 B i = le32 B' i' := by
  have h0 : byteAt B i = byteAt B' i' := h 0 (by decide)
  rw [le32, le32, h0, h 1 (by decide), h 2 (by decide), h 3 (by decide)]

theorem le32_eq_of_lanes {B : List Byte} {i : Nat} {v : Word}
    (h : ∀ k < 4, byteAt B (i + k) = v.extractLsb' (8 * k) 8) : le32 B i = v := by
  have h0 : byteAt B i = v.extractLsb' 0 8 := h 0 (by decide)
  rw [le32, h0, h 1 (by decide), h 2 (by decide), h 3 (by decide)]
  exact join_bytes32 v

/-- The aligned words of an array after a store of one of them. -/
theorem le32_storeLanes (b : Vector Byte 64) (v : Word) {j m : Nat} (hj : j < 16) :
    le32 (storeLanes b (4 * j) v).toList (4 * m) = if m = j then v else le32 b.toList (4 * m) := by
  split
  · next hm =>
    subst hm
    refine le32_eq_of_lanes fun k hk => ?_
    rw [byteAt_toList, getElem?_storeLanes _ _ _ _ (by omega), if_pos (by omega), Nat.add_sub_cancel_left,
      Option.getD_some]
  · next hm =>
    refine le32_congr fun k hk => ?_
    rw [byteAt_toList, byteAt_toList, getElem?_storeLanes _ _ _ _ (by omega), if_neg (by omega)]

/-! ### A write of one piece of state leaves what the other registers read -/

theorem busRead_setLen (s : State) (l : DWord) (off : Nat) :
    busRead (s.setLen l) off = if off = 0x008 then lenLo l else if off = 0x00C then lenHi l else busRead s off := by
  split_ifs with hlo hhi
  · subst hlo; rfl
  · subst hhi; rfl
  · simp [busRead, hlo, hhi]

theorem busRead_setH4_of_outside (s : State) (h : Vector Word 4) {off : Nat} (hreg : ¬(0x020 ≤ off ∧ off ≤ 0x02C))
    (hdigest : ¬(0x0C0 ≤ off ∧ off ≤ 0x0CC)) : busRead (s.setH4 h) off = busRead s off := by
  simp [busRead, hreg, hdigest]

theorem busRead_setH5_of_outside (s : State) (h : Vector Word 5) {off : Nat} (hreg : ¬(0x030 ≤ off ∧ off ≤ 0x040))
    (hdigest : ¬(0x0D0 ≤ off ∧ off ≤ 0x0E0)) : busRead (s.setH5 h) off = busRead s off := by
  simp [busRead, hreg, hdigest]

theorem busRead_setBlk_of_outside (s : State) (b : Vector Byte 64) {off : Nat} (hreg : ¬(0x080 ≤ off ∧ off ≤ 0x0BC)) :
    busRead (s.setBlk b) off = busRead s off := by
  simp [busRead, hreg]

/-! ### The writable registers -/

/-- The offsets of the writable stored registers: LEN_LO, LEN_HI, and the words of H4, H5 and BLK. -/
def IsWritable (off : Nat) : Prop :=
  off = 0x008 ∨ off = 0x00C ∨ 0x020 ≤ off ∧ off ≤ 0x040 ∨ 0x080 ≤ off ∧ off ≤ 0x0BC

theorem IsWritable.cases {off : Nat} (h : IsWritable off) (hal : off % 4 = 0) :
    off = 0x008 ∨ off = 0x00C ∨ (∃ i < 4, off = 0x020 + 4 * i) ∨ (∃ i < 5, off = 0x030 + 4 * i) ∨
      ∃ j < 16, off = 0x080 + 4 * j := by
  obtain rfl | rfl | h | h := h
  · exact .inl rfl
  · exact .inr (.inl rfl)
  · by_cases h4 : off < 0x030
    · exact .inr (.inr (.inl (exists_wordIndex hal rfl (by omega))))
    · exact .inr (.inr (.inr (.inl (exists_wordIndex hal rfl (by omega)))))
  · exact .inr (.inr (.inr (.inr (exists_wordIndex hal rfl (by omega)))))

/-! ### A store and a read, by the piece of state that is stored -/

theorem busRead_busStore_h4 (s : State) (v : Word) {i off : Nat} (hi : i < 4) (hw : IsWritable off) (hal : off % 4 = 0) :
    busRead (busStore s (0x020 + 4 * i) v) off = if off = 0x020 + 4 * i then v else busRead s off := by
  rw [busStore_h4 s v hi]
  by_cases hreg : 0x020 ≤ off ∧ off ≤ 0x02C
  · obtain ⟨m, hm, rfl⟩ := exists_wordIndex (lo := 0x020) (n := 4) hal rfl (by omega)
    have hread := busRead_h4 (s.setH4 (s.h4.setIfInBounds i v)) hm
    rw [State.setH4_h4, getElem?_setIfInBounds_of_lt _ hi, busRead_h4 s hm, ← apply_ite some] at hread
    simpa using (Option.some.inj hread).symm
  · unfold IsWritable at hw
    rw [busRead_setH4_of_outside s _ hreg (by omega), if_neg (by omega)]

theorem busRead_busStore_h5 (s : State) (v : Word) {i off : Nat} (hi : i < 5) (hw : IsWritable off) (hal : off % 4 = 0) :
    busRead (busStore s (0x030 + 4 * i) v) off = if off = 0x030 + 4 * i then v else busRead s off := by
  rw [busStore_h5 s v hi]
  by_cases hreg : 0x030 ≤ off ∧ off ≤ 0x040
  · obtain ⟨m, hm, rfl⟩ := exists_wordIndex (lo := 0x030) (n := 5) hal rfl (by omega)
    have hread := busRead_h5 (s.setH5 (s.h5.setIfInBounds i v)) hm
    rw [State.setH5_h5, getElem?_setIfInBounds_of_lt _ hi, busRead_h5 s hm, ← apply_ite some] at hread
    simpa using (Option.some.inj hread).symm
  · unfold IsWritable at hw
    rw [busRead_setH5_of_outside s _ hreg (by omega), if_neg (by omega)]

theorem busRead_busStore_blk (s : State) (v : Word) {j off : Nat} (hj : j < 16) (hal : off % 4 = 0) :
    busRead (busStore s (0x080 + 4 * j) v) off = if off = 0x080 + 4 * j then v else busRead s off := by
  rw [busStore_blk s v hj]
  by_cases hreg : 0x080 ≤ off ∧ off ≤ 0x0BC
  · obtain ⟨m, hm, rfl⟩ := exists_wordIndex (lo := 0x080) (n := 16) hal rfl (by omega)
    rw [busRead_blk _ hm, busRead_blk s hm, State.setBlk_blk, le32_storeLanes _ _ hj]
    simp
  · rw [busRead_setBlk_of_outside s _ hreg, if_neg (by omega)]

/-- Settles O25: a store writes one piece of state; a register of another piece reads what it did, and one of the same
piece the new word at its own place and the old one elsewhere. -/
theorem readAfterWrite : Obligations.ReadAfterWrite := by
  intro s off off' v hal hal' hw hw'
  obtain rfl | rfl | ⟨i, hi, rfl⟩ | ⟨i, hi, rfl⟩ | ⟨j, hj, rfl⟩ := IsWritable.cases hw hal
  · rw [busStore_lenLo, busRead_setLen, lenLo_lenOfHalves, lenHi_lenOfHalves]
    split_ifs with hlo hhi
    · rfl
    · subst hhi; rfl
    · rfl
  · rw [busStore_lenHi, busRead_setLen, lenLo_lenOfHalves, lenHi_lenOfHalves]
    by_cases hlo : off' = 0x008
    · subst hlo; rfl
    · rw [if_neg hlo]
  · exact busRead_busStore_h4 s v hi hw' hal'
  · exact busRead_busStore_h5 s v hi hw' hal'
  · exact busRead_busStore_blk s v hj hal'

end Sys2Proof.Machine
end

section
/-! PROOFS. Digests and messages: reconstruction of a chaining state, the domain of the message-level functions, chaining,
length extension and the search over key lengths (41_md4.md R100, 42_sha1.md R109, 43_message_level.md). -/

namespace Sys2Proof.Machine

/-! ### Words and their four bytes -/

theorem byteAt_eq_getElem {B : List Byte} {i : Nat} (h : i < B.length) : byteAt B i = B[i] := by simp [byteAt, h]

theorem take_four_drop {D : List Byte} {i : Nat} (h : i + 4 ≤ D.length) :
    (D.drop i).take 4 = [byteAt D i, byteAt D (i + 1), byteAt D (i + 2), byteAt D (i + 3)] := by
  have cons {k : Nat} (hk : k < D.length) : D.drop k = byteAt D k :: D.drop (k + 1) := by
    rw [byteAt_eq_getElem hk, List.drop_eq_getElem_cons hk]
  rw [cons (by omega), cons (by omega), cons (by omega), cons (by omega)]
  rfl

theorem leBytes32_le32 (B : List Byte) (i : Nat) :
    leBytes32 (le32 B i) = [byteAt B i, byteAt B (i + 1), byteAt B (i + 2), byteAt B (i + 3)] := by
  have h0 : (le32 B i).extractLsb' 0 8 = byteAt B i := extractLsb'_le32 B i (k := 0) (by decide)
  have h1 : (le32 B i).extractLsb' 8 8 = byteAt B (i + 1) := extractLsb'_le32 B i (k := 1) (by decide)
  have h2 : (le32 B i).extractLsb' 16 8 = byteAt B (i + 2) := extractLsb'_le32 B i (k := 2) (by decide)
  have h3 : (le32 B i).extractLsb' 24 8 = byteAt B (i + 3) := extractLsb'_le32 B i (k := 3) (by decide)
  rw [leBytes32, h0, h1, h2, h3]

/-- The four bytes of a big-endian word are those of the little-endian word at the same place. -/
theorem beBytes32_be32 (B : List Byte) (i : Nat) : beBytes32 (be32 B i) = leBytes32 (le32 B i) := by
  have h0 : (be32 B i).extractLsb' 24 8 = byteAt B i := extractLsb'_be32 B i (k := 0) (by decide)
  have h1 : (be32 B i).extractLsb' 16 8 = byteAt B (i + 1) := extractLsb'_be32 B i (k := 1) (by decide)
  have h2 : (be32 B i).extractLsb' 8 8 = byteAt B (i + 2) := extractLsb'_be32 B i (k := 2) (by decide)
  have h3 : (be32 B i).extractLsb' 0 8 = byteAt B (i + 3) := extractLsb'_be32 B i (k := 3) (by decide)
  rw [leBytes32_le32, beBytes32, h0, h1, h2, h3]

theorem take_append_leBytes32_le32 {D : List Byte} {i : Nat} (h : i + 4 ≤ D.length) :
    D.take i ++ leBytes32 (le32 D i) = D.take (i + 4) := by
  rw [leBytes32_le32, ← take_four_drop h, ← List.take_add]

theorem leBytes32_four_words {D : List Byte} (h : 16 ≤ D.length) :
    leBytes32 (le32 D 0) ++ leBytes32 (le32 D 4) ++ leBytes32 (le32 D 8) ++ leBytes32 (le32 D 12) = D.take 16 := by
  have h0 : leBytes32 (le32 D 0) = D.take 4 := take_append_leBytes32_le32 (i := 0) (by omega)
  rw [h0, take_append_leBytes32_le32 (by omega), take_append_leBytes32_le32 (by omega),
    take_append_leBytes32_le32 (by omega)]

theorem leBytes32_five_words {D : List Byte} (h : 20 ≤ D.length) :
    leBytes32 (le32 D 0) ++ leBytes32 (le32 D 4) ++ leBytes32 (le32 D 8) ++ leBytes32 (le32 D 12) ++
      leBytes32 (le32 D 16) = D.take 20 := by
  rw [leBytes32_four_words (by omega), take_append_leBytes32_le32 h]

/-! ### Reconstruction of a chaining state -/

theorem md4Digest_length (h : Vector Word 4) : (md4Digest h).length = 16 := rfl

theorem sha1Digest_length (h : Vector Word 5) : (sha1Digest h).length = 20 := rfl

theorem be32_sha1Digest (h : Vector Word 5) {i : Nat} (hi : i < 5) : be32 (sha1Digest h) (4 * i) = h[i] := by
  interval_cases i <;> exact be32_beBytes32 _

theorem parseMd4_md4Digest (h : Vector Word 4) : parseMd4 (md4Digest h) = some h := by
  rw [parseMd4, if_pos (md4Digest_length h)]
  refine congrArg some (Vector.ext fun i hi => ?_)
  rw [← le32_md4Digest h hi]
  interval_cases i <;> rfl

theorem parseSha1_sha1Digest (h : Vector Word 5) : parseSha1 (sha1Digest h) = some h := by
  rw [parseSha1, if_pos (sha1Digest_length h)]
  refine congrArg some (Vector.ext fun i hi => ?_)
  rw [← be32_sha1Digest h hi]
  interval_cases i <;> rfl

theorem md4Digest_of_parseMd4 {D : List Byte} (hD : D.length = 16) : ∃ h, parseMd4 D = some h ∧ md4Digest h = D :=
  ⟨_, if_pos hD, (leBytes32_four_words hD.ge).trans (List.take_of_length_le hD.le)⟩

theorem sha1Digest_of_parseSha1 {D : List Byte} (hD : D.length = 20) :
    ∃ h, parseSha1 D = some h ∧ sha1Digest h = D := by
  refine ⟨_, if_pos hD, ?_⟩
  change beBytes32 (be32 D 0) ++ beBytes32 (be32 D 4) ++ beBytes32 (be32 D 8) ++ beBytes32 (be32 D 12) ++
    beBytes32 (be32 D 16) = D
  simp only [beBytes32_be32]
  exact (leBytes32_five_words hD.ge).trans (List.take_of_length_le hD.le)

/-- Settles O43: every word of a digest is read back from its own four bytes, and the other way round. -/
theorem digestReconstruction : Obligations.DigestReconstruction := by
  refine ⟨fun h => ⟨md4Digest_length h, parseMd4_md4Digest h⟩, fun h => ⟨sha1Digest_length h, parseSha1_sha1Digest h⟩,
    fun D => ?_, fun D => ?_⟩
  · by_cases hD : D.length = 16
    · exact .inr (md4Digest_of_parseMd4 hD)
    · exact .inl ⟨hD, if_neg hD⟩
  · by_cases hD : D.length = 20
    · exact .inr (sha1Digest_of_parseSha1 hD)
    · exact .inl ⟨hD, if_neg hD⟩

/-! ### The two message-level functions as one -/

/-- The message-level function of a block function `f`, a digest and a byte order (43_message_level.md R112, R113). -/
def hashCore {σ : Type} (f : σ → List Byte → σ) (digest : σ → List Byte) (e : Endian) (M : List Byte) (L : Nat) (iv : σ) :
    Option (List Byte) :=
  if messageDomain M L then some (digest (foldBlocks f iv (paddedStream e M L))) else none

theorem md4HashCore_eq (M : List Byte) (L : Nat) (iv : Vector Word 4) :
    md4HashCore M L iv = hashCore md4Block md4Digest .little M L iv := rfl

theorem sha1HashCore_eq (M : List Byte) (L : Nat) (iv : Vector Word 5) :
    sha1HashCore M L iv = hashCore sha1Block sha1Digest .big M L iv := rfl

section
variable {σ : Type} (f : σ → List Byte → σ) (digest : σ → List Byte) (e : Endian)

theorem messageDomain_iff (M : List Byte) (L : Nat) :
    messageDomain M L = true ↔ L < 2 ^ 64 ∧ M.length % 64 = L % 64 := decide_eq_true_iff

theorem hashCore_of_domain {M : List Byte} {L : Nat} (hL : L < 2 ^ 64) (hM : M.length % 64 = L % 64) (iv : σ) :
    hashCore f digest e M L iv = some (digest (foldBlocks f iv (paddedStream e M L))) :=
  if_pos ((messageDomain_iff M L).2 ⟨hL, hM⟩)

theorem hashCore_isSome_iff {M : List Byte} {L : Nat} (hL : L < 2 ^ 64) (iv : σ) :
    (hashCore f digest e M L iv).isSome = true ↔ M.length % 64 = L % 64 := by
  constructor
  · intro h
    by_contra hM
    have hdom : ¬messageDomain M L = true := fun hdom => hM ((messageDomain_iff M L).1 hdom).2
    rw [hashCore, if_neg hdom] at h
    cases h
  · intro hM
    rw [hashCore_of_domain f digest e hL hM]
    rfl

theorem paddedStream_length_mod_iff (M : List Byte) (L : Nat) :
    (paddedStream e M L).length % 64 = 0 ↔ M.length % 64 = L % 64 := by
  have halign := add_pad_length_mod L (show 0 < 64 by decide) e
  rw [paddedStream, List.length_append]
  omega

end

/-- Settles O44: the padding fills `L` up to whole blocks, so the message's length has to agree with `L`. -/
theorem paddedStreamAlignment : Obligations.PaddedStreamAlignment := fun e M L =>
  ⟨paddedStream_length_mod_iff e M L,
    fun hL iv iv' => ⟨hashCore_isSome_iff _ _ _ hL iv, hashCore_isSome_iff _ _ _ hL iv'⟩⟩

/-! ### Chaining (43_message_level.md R119) -/

section
variable {σ : Type} (f : σ → List Byte → σ) (digest : σ → List Byte) (e : Endian)

/-- The fold over a stream that begins with whole blocks. -/
theorem foldBlocks_append (n : Nat) {M S : List Byte} (hM : M.length = 64 * n) (h : σ) :
    foldBlocks f h (M ++ S) = foldBlocks f (foldBlocks f h M) S := by
  induction n generalizing M h with
  | zero =>
    obtain rfl := List.length_eq_zero_iff.1 hM
    rw [List.nil_append, foldBlocks_nil]
  | succ n ih =>
    have hblock : (M.take 64).length = 64 := by rw [List.length_take]; omega
    have hrest : (M.drop 64).length = 64 * n := by rw [List.length_drop]; omega
    rw [← List.take_append_drop 64 M, List.append_assoc, foldBlocks_append_block f h hblock,
      foldBlocks_append_block f h hblock, ih hrest]

/-- A hash resumes from any block boundary. -/
theorem hashCore_append {M₁ M₂ : List Byte} {L : Nat} (h₁ : M₁.length % 64 = 0) (h₂ : M₂.length % 64 = L % 64)
    (hL : L < 2 ^ 64) (iv : σ) :
    (hashCore f digest e (M₁ ++ M₂) L iv).isSome = true ∧
      hashCore f digest e (M₁ ++ M₂) L iv = hashCore f digest e M₂ L (foldBlocks f iv M₁) := by
  have h₁₂ : (M₁ ++ M₂).length % 64 = L % 64 := by rw [List.length_append]; omega
  refine ⟨(hashCore_isSome_iff f digest e hL iv).2 h₁₂, ?_⟩
  rw [hashCore_of_domain f digest e hL h₁₂, hashCore_of_domain f digest e hL h₂, paddedStream, List.append_assoc,
    foldBlocks_append f (M₁.length / 64) (by omega), ← paddedStream]

end

/-- Settles O45: both algorithms are folds over blocks, and the padding depends on `L` alone. -/
theorem hashChaining : Obligations.HashChaining := fun _ _ _ h₁ h₂ hL =>
  ⟨hashCore_append _ _ _ h₁ h₂ hL, hashCore_append _ _ _ h₁ h₂ hL⟩

/-! ### Length extension (43_message_level.md R120) -/

/-- The length-extension identity of one algorithm: the hash of key and message stands for a state from which the suffix
is hashed to the hash of key, message, glue and suffix. -/
theorem hashCore_extend {σ : Type} (f : σ → List Byte → σ) (digest : σ → List Byte) (e : Endian)
    (parse : List Byte → Option σ) (hparse : ∀ h, parse (digest h) = some h) (iv : σ) (K m s : List Byte) :
    let g := pad (K.length + m.length) 64 e
    let T := K.length + m.length + g.length + s.length
    T < 2 ^ 64 → ∃ D h, hashCore f digest e (K ++ m) (K ++ m).length iv = some D ∧ parse D = some h ∧
      (hashCore f digest e (K ++ m ++ g ++ s) (K ++ m ++ g ++ s).length iv).isSome = true ∧
      hashCore f digest e (K ++ m ++ g ++ s) (K ++ m ++ g ++ s).length iv = hashCore f digest e s T h := by
  intro g T hT
  have hKm : (K ++ m).length = K.length + m.length := List.length_append
  have hlen : (K ++ m ++ g ++ s).length = T := by simp only [List.length_append, T]
  have hstream : paddedStream e (K ++ m) (K ++ m).length = K ++ m ++ g := by rw [paddedStream, hKm]
  have hblocks : (K ++ m ++ g).length % 64 = 0 := by
    rw [← hstream, paddedStream_length_mod_iff]
  have hs : s.length % 64 = T % 64 := by
    rw [← hlen, List.length_append]
    omega
  have hKmT : (K ++ m).length < 2 ^ 64 := by omega
  refine ⟨_, foldBlocks f iv (K ++ m ++ g), hashCore_of_domain f digest e hKmT rfl iv, ?_, ?_⟩
  · rw [hstream, hparse]
  · rw [hlen]
    exact hashCore_append f digest e hblocks hs hT iv

/-- Settles O46: the identity of one algorithm, for MD4 and for SHA-1. -/
theorem lengthExtensionIdentity : Obligations.LengthExtensionIdentity := fun K m s =>
  ⟨hashCore_extend md4Block md4Digest .little parseMd4 parseMd4_md4Digest Config.iv4 K m s,
    hashCore_extend sha1Block sha1Digest .big parseSha1 parseSha1_sha1Digest Config.iv5 K m s⟩

/-! ### The search over key lengths (43_message_level.md R122) -/

/-- Resumed from the MAC, the suffix hashes to the hash of key, message, glue and suffix, and that hash exists. -/
theorem resume_eq_hashDefault {A : HashAlgorithm} (hA : A = md4Algorithm ∨ A = sha1Algorithm)
    {key message suffix mac : List Byte} (hmac : A.hashDefault (key ++ message) = some mac) :
    let g := glue A message key.length
    let T := key.length + message.length + g.length + suffix.length
    T < 2 ^ 64 → (A.hashDefault (key ++ message ++ g ++ suffix)).isSome = true ∧
      A.hashDefault (key ++ message ++ g ++ suffix) = A.resume suffix T mac := by
  intro g T hT
  obtain ⟨h4, h5⟩ := lengthExtensionIdentity key message suffix
  obtain rfl | rfl := hA
  · obtain ⟨D, h, hD, hparse, hsome, heq⟩ := h4 hT
    obtain rfl : D = mac := Option.some.inj (hD.symm.trans hmac)
    exact ⟨hsome, heq.trans (congrArg (Option.bind · (md4HashCore suffix T)) hparse).symm⟩
  · obtain ⟨D, h, hD, hparse, hsome, heq⟩ := h5 hT
    obtain rfl : D = mac := Option.some.inj (hD.symm.trans hmac)
    exact ⟨hsome, heq.trans (congrArg (Option.bind · (sha1HashCore suffix T)) hparse).symm⟩

/-- With the real key's length the forged MAC is the oracle's answer, and there is one. -/
theorem forgedMac_of_realLength {A : HashAlgorithm} (hA : A = md4Algorithm ∨ A = sha1Algorithm)
    {key message suffix mac : List Byte} (hmac : A.hashDefault (key ++ message) = some mac)
    (hT : key.length + message.length + (glue A message key.length).length + suffix.length < 2 ^ 64) :
    ∃ forged, forgedMac A mac message suffix key.length = some forged ∧
      A.hashDefault (key ++ (message ++ glue A message key.length ++ suffix)) = some forged := by
  obtain ⟨hsome, heq⟩ := resume_eq_hashDefault hA hmac hT
  obtain ⟨forged, hforged⟩ := Option.isSome_iff_exists.1 hsome
  refine ⟨forged, heq.symm.trans hforged, ?_⟩
  rw [← List.append_assoc, ← List.append_assoc]
  exact hforged

/-- A search in increasing order that succeeds at `k` succeeds at `k` or before it. -/
theorem exists_find?_range'_le {p : Nat → Bool} {lo n k : Nat} (hmem : k ∈ List.range' lo n) (hk : p k = true) :
    ∃ g, (List.range' lo n).find? p = some g ∧ lo ≤ g ∧ g ≤ k := by
  obtain ⟨g, hg⟩ := Option.isSome_iff_exists.1 (List.find?_isSome.2 ⟨k, hmem, hk⟩)
  obtain ⟨-, hgmem, hfirst⟩ := List.find?_range'_eq_some.1 hg
  refine ⟨g, hg, (List.mem_range'_1.1 hgmem).1, ?_⟩
  by_contra hlt
  have hno := hfirst k (List.mem_range'_1.1 hmem).1 (by omega)
  simp [hk] at hno

/-- Settles O47: the real length passes the test, so the first that does is no longer. -/
theorem keyLengthSearchSucceeds : Obligations.KeyLengthSearchSucceeds := by
  intro A hA key message suffix mac lo hi hlo hhi hmac hT
  obtain ⟨forged, hforged, horacle⟩ := forgedMac_of_realLength hA hmac hT
  refine exists_find?_range'_le (List.mem_range'_1.2 ⟨hlo, by omega⟩) ?_
  simp only [hforged, horacle, decide_true]

end Sys2Proof.Machine
end

section
/-! PROOFS. Host programs run on the core: single accesses, lines, and the sequences that compute the message-level
functions (30_encoding.md R75, R76, 43_message_level.md R115, R116). -/

namespace Sys2Proof.Machine

/-! ### Performing a list of accesses -/

/-- The state with the core of `c` and this host side. -/
def State.withHost (c : State) (p : List HostEvent) (r : List BusResponse) : State :=
  { c with pending := p, responses := r }

/-- The accesses `as`, performed on the core of `c`, leave the core of `c'` and are answered by `rs`, whatever the host
does after them and has been answered before. -/
def Performs (as : List BusAccess) (rs : List BusResponse) (c c' : State) : Prop :=
  ∀ (rest : List HostEvent) (r : List BusResponse),
    core.run as.length (c.withHost (as.map .access ++ rest) r) = .next (c'.withHost rest (r ++ rs))

theorem Performs.nil (c : State) : Performs [] [] c c := fun rest r => by
  rw [List.append_nil]; rfl

theorem Performs.append {as as' : List BusAccess} {rs rs' : List BusResponse} {c c' c'' : State}
    (h : Performs as rs c c') (h' : Performs as' rs' c' c'') : Performs (as ++ as') (rs ++ rs') c c'' := by
  intro rest r
  rw [List.length_append, List.map_append, List.append_assoc, run_add (h _ r), h', List.append_assoc]

/-- One access after the other, for a family of accesses. -/
theorem Performs.map_range {as : Nat → BusAccess} {rs : Nat → BusResponse} {c : Nat → State} {n : Nat}
    (h : ∀ j < n, Performs [as j] [rs j] (c j) (c (j + 1))) :
    Performs ((List.range n).map as) ((List.range n).map rs) (c 0) (c n) := by
  induction n with
  | zero => exact Performs.nil _
  | succ n ih =>
    rw [List.range_succ, List.map_append, List.map_append]
    exact (ih fun j hj => h j (by omega)).append (h n (by omega))

/-- The run of a program from a state whose next events are its accesses. -/
theorem Performs.run {ops : List HostOp} {rs : List BusResponse} {s c : State}
    (h : Performs (ops.flatMap HostOp.expand) rs s c) {rest : List HostEvent} (hp : s.pending = program ops ++ rest) :
    core.run (program ops).length s = .next (c.withHost rest (s.responses ++ rs)) := by
  have hs : s = s.withHost ((ops.flatMap HostOp.expand).map .access ++ rest) s.responses := by
    rw [State.withHost, ← program, ← hp]
  rw [program, List.length_map, ← h rest s.responses, ← hs]

/-! ### Single accesses -/

theorem performs_of_step {a : BusAccess} {r : BusResponse} {c c' : State}
    (h : ∀ rest rs, step (c.withHost (.access a :: rest) rs) = .next (c'.withHost rest (rs ++ [r]))) :
    Performs [a] [r] c c' := fun rest rs => run_succ 0 (h rest rs)

theorem busStore_withHost (c : State) (off : Nat) (v : Word) (p : List HostEvent) (r : List BusResponse) :
    busStore (c.withHost p r) off v = (busStore c off v).withHost p r := by
  unfold busStore
  split_ifs <;> rfl

/-- A store to an aligned offset of the window but CMD. -/
theorem performs_sw (c : State) {off : Nat} (v : Word) (hcmd : off ≠ 0) (hlt : off < 0x200) (hal : off % 4 = 0) :
    Performs [sw off v] [.written] c (busStore c off v) :=
  performs_of_step fun rest rs => by
    rw [step_of_write hlt hal rfl, busWrite_of_ne_cmd hcmd, ← busStore_withHost]
    rfl

/-- A read of an aligned offset of the window. -/
theorem performs_lw (c : State) {off : Nat} (hlt : off < 0x200) (hal : off % 4 = 0) :
    Performs [lw off] [.data (busRead c off)] c c :=
  performs_of_step fun _ _ => step_of_read hlt hal rfl

/-- A line that is a command. -/
theorem performs_command {i : Instr} {c t : State} (hwf : i.wellFormed = true) (h : exec i c = .next t) :
    Performs (HostOp.command i).expand [.written] c t :=
  performs_of_step fun rest rs => by
    obtain ⟨u, hu, -, -, hupdate⟩ := exec_hostUpdate i c
    cases hu.symm.trans h
    have hstep := step_of_cmd (s := c.withHost (cmdWrite (encode i) :: rest) rs) rfl
    rw [execute_of_ok (decodeAfterEncode i hwf)] at hstep
    exact hstep.trans (hupdate rest (rs ++ [BusResponse.written]))

/-! ### The writes that fill an array, in order of its words -/

/-- The first `k` elements of `new`, and those of `old` from there on. -/
def overlay {α : Type} {n : Nat} (new old : Vector α n) (k : Nat) : Vector α n :=
  Vector.ofFn fun i => if i.val < k then new[i] else old[i]

theorem getElem_overlay {α : Type} {n : Nat} (new old : Vector α n) (k : Nat) {m : Nat} (hm : m < n) :
    (overlay new old k)[m] = if m < k then new[m] else old[m] := by simp [overlay]

theorem overlay_zero {α : Type} {n : Nat} (new old : Vector α n) : overlay new old 0 = old :=
  Vector.ext fun m hm => by rw [getElem_overlay _ _ _ hm, if_neg (by omega)]

theorem overlay_size {α : Type} {n : Nat} (new old : Vector α n) : overlay new old n = new :=
  Vector.ext fun m hm => by rw [getElem_overlay _ _ _ hm, if_pos hm]

/-- Storing the next element of `new`. -/
theorem setIfInBounds_overlay {α : Type} {n : Nat} (new old : Vector α n) {k : Nat} (hk : k < n) :
    (overlay new old k).setIfInBounds k new[k] = overlay new old (k + 1) :=
  Vector.ext fun m hm => by
    rw [Vector.getElem_setIfInBounds hm, getElem_overlay _ _ _ hm, getElem_overlay _ _ _ hm]
    by_cases hmk : k = m
    · subst hmk
      rw [if_pos rfl, if_pos (by omega)]
    · have hlt : m < k ↔ m < k + 1 := by omega
      simp only [if_neg hmk, hlt]

theorem getElem_storeLanes {n : Nat} (b : Vector Byte n) (i : Nat) {m : Nat} (v : Word) (h : i + 3 < n) (hm : m < n) :
    (storeLanes b i v)[m] = if i ≤ m ∧ m < i + 4 then v.extractLsb' (8 * (m - i)) 8 else b[m] := by
  have hget := getElem?_storeLanes b i m v h
  rw [Vector.getElem?_eq_getElem hm, Vector.getElem?_eq_getElem hm, ← apply_ite some] at hget
  exact Option.some.inj hget

/-- Storing the next word of `new` through the byte lanes. -/
theorem storeLanes_overlay {n : Nat} (new old : Vector Byte n) {k : Nat} (hk : k + 3 < n) :
    storeLanes (overlay new old k) k (le32 new.toList k) = overlay new old (k + 4) :=
  Vector.ext fun m hm => by
    rw [getElem_storeLanes _ _ _ hk hm, getElem_overlay _ _ _ hm, getElem_overlay _ _ _ hm]
    by_cases hlane : k ≤ m ∧ m < k + 4
    · have hm' : k + (m - k) = m := by omega
      rw [if_pos hlane, if_pos hlane.2, extractLsb'_le32 _ _ (by omega), hm', byteAt_eq_getElem (by simpa using hm),
        Vector.getElem_toList]
    · have hlt : m < k ↔ m < k + 4 := by omega
      simp only [if_neg hlane, hlt]

/-! ### The lines that write -/

/-- Stores to `n` consecutive words of the window; `c j` is the core before store `j`. -/
theorem performs_stores {base n : Nat} {V : Nat → Word} {c : Nat → State} (hbase : 0 < base) (hal : base % 4 = 0)
    (hlt : base + 4 * n ≤ 0x200) (h : ∀ j < n, busStore (c j) (base + 4 * j) (V j) = c (j + 1)) :
    Performs ((List.range n).map fun j => sw (base + 4 * j) (V j)) (List.replicate n .written) (c 0) (c n) := by
  have hrs : (List.range n).map (fun _ => BusResponse.written) = List.replicate n .written := by simp
  rw [← hrs]
  refine Performs.map_range fun j hj => ?_
  rw [← h j hj]
  exact performs_sw _ _ (by omega) (by omega) (by omega)

theorem performs_md4Setiv (c : State) (iv : Vector Word 4) :
    Performs (HostOp.md4Setiv iv).expand (List.replicate 4 .written) c (c.setH4 iv) := by
  have h := performs_stores (base := 0x020) (n := 4) (V := fun i => iv.getD i 0)
    (c := fun i => c.setH4 (overlay iv c.h4 i)) (by decide) (by decide) (by decide) fun i hi => by
      have hv : iv.getD i 0 = iv[i] := by simp [Vector.getD, hi]
      rw [busStore_h4 _ _ hi, State.setH4_h4, hv, setIfInBounds_overlay _ _ hi]
      rfl
  rw [overlay_zero, overlay_size] at h
  exact h

theorem performs_sha1Setiv (c : State) (iv : Vector Word 5) :
    Performs (HostOp.sha1Setiv iv).expand (List.replicate 5 .written) c (c.setH5 iv) := by
  have h := performs_stores (base := 0x030) (n := 5) (V := fun i => iv.getD i 0)
    (c := fun i => c.setH5 (overlay iv c.h5 i)) (by decide) (by decide) (by decide) fun i hi => by
      have hv : iv.getD i 0 = iv[i] := by simp [Vector.getD, hi]
      rw [busStore_h5 _ _ hi, State.setH5_h5, hv, setIfInBounds_overlay _ _ hi]
      rfl
  rw [overlay_zero, overlay_size] at h
  exact h

theorem setBlk_setBlk (c : State) (b b' : Vector Byte 64) : (c.setBlk b).setBlk b' = c.setBlk b' := rfl

theorem performs_blk (c : State) (b : Vector Byte 64) :
    Performs (HostOp.blk b.toList).expand (List.replicate 16 .written) c (c.setBlk b) := by
  have hstep {j : Nat} (hj : j < 16) :
      busStore (c.setBlk (overlay b c.blk (4 * j))) (0x080 + 4 * j) (le32 b.toList (4 * j)) =
        c.setBlk (overlay b c.blk (4 * (j + 1))) := by
    rw [busStore_blk _ _ hj, State.setBlk_blk, storeLanes_overlay _ _ (by omega), setBlk_setBlk, Nat.mul_succ]
  have h := performs_stores (base := 0x080) (n := 16) (V := fun j => le32 b.toList (4 * j))
    (c := fun j => c.setBlk (overlay b c.blk (4 * j))) (by decide) (by decide) (by decide) fun j hj => hstep hj
  have hfull : overlay b c.blk (4 * 16) = b := overlay_size b c.blk
  rw [Nat.mul_zero, overlay_zero, hfull] at h
  exact h

theorem performs_len (c : State) (L : Nat) :
    Performs (HostOp.len L).expand (List.replicate 2 .written) c (c.setLen (BitVec.ofNat 64 L)) := by
  have hlo := performs_sw c (off := 0x008) (lenLo (BitVec.ofNat 64 L)) (by decide) (by decide) (by decide)
  have hhi := performs_sw (c.setLen (lenOfHalves (lenHi c.len) (lenLo (BitVec.ofNat 64 L)))) (off := 0x00C)
    (lenHi (BitVec.ofNat 64 L)) (by decide) (by decide) (by decide)
  rw [busStore_lenHi, State.setLen_len, lenLo_lenOfHalves, lenOfHalves_halves] at hhi
  exact hlo.append hhi

theorem exists_vector_toList {n : Nat} {B : List Byte} (hB : B.length = n) : ∃ b : Vector Byte n, b.toList = B :=
  ⟨⟨B.toArray, hB⟩, rfl⟩

/-- Settles O48: each write stores the next word of `B`, and sixteen words are all of BLK. -/
theorem sixteenWritesFillBlk : Obligations.SixteenWritesFillBlk := by
  intro s B rest hB hp
  obtain ⟨b, rfl⟩ := exists_vector_toList hB
  have h : Performs ([HostOp.blk b.toList].flatMap HostOp.expand) (List.replicate 16 .written) s (s.setBlk b) := by
    rw [List.flatMap_singleton]
    exact performs_blk s b
  exact ⟨b, rfl, h.run hp⟩

/-! ### The lines that read a digest -/

theorem performs_md4Digest (c : State) :
    Performs HostOp.md4Digest.expand ((List.range 4).map fun i => .data (busRead c (0x0C0 + 4 * i))) c c :=
  Performs.map_range (c := fun _ => c) fun i hi => performs_lw c (by omega) (by omega)

theorem performs_sha1Digest (c : State) :
    Performs HostOp.sha1Digest.expand ((List.range 5).map fun i => .data (busRead c (0x0D0 + 4 * i))) c c :=
  Performs.map_range (c := fun _ => c) fun i hi => performs_lw c (by omega) (by omega)

/-- The four words read from MD4_DIGEST carry the bytes of the digest (10_state.md R32). -/
theorem leBytes32_reads_md4Digest (c : State) :
    leBytes32 (busRead c 0x0C0) ++ leBytes32 (busRead c 0x0C4) ++ leBytes32 (busRead c 0x0C8) ++
      leBytes32 (busRead c 0x0CC) = md4Digest c.h4 :=
  leBytes32_four_words (md4Digest_length c.h4).ge

/-- The five words read from SHA1_DIGEST carry the bytes of the digest (10_state.md R33). -/
theorem leBytes32_reads_sha1Digest (c : State) :
    leBytes32 (busRead c 0x0D0) ++ leBytes32 (busRead c 0x0D4) ++ leBytes32 (busRead c 0x0D8) ++
      leBytes32 (busRead c 0x0DC) ++ leBytes32 (busRead c 0x0E0) = sha1Digest c.h5 :=
  leBytes32_five_words (sha1Digest_length c.h5).ge

/-! ### The blocks -/

/-- The core of `s` between two blocks: both chaining states, LEN and STICKY as given, and no error reported. -/
structure Ready (s : State) (h : Vector Word 4 × Vector Word 5) (l : DWord) (k : Bool) : Prop where
  chaining : (s.h4, s.h5) = h
  len : s.len = l
  lastErr : s.lastErr = 0
  sticky : s.sticky = k

/-- The command `i` applies `F` to the chaining states and to BLK, and succeeds. -/
def Compresses (i : Instr) (F : Vector Word 4 × Vector Word 5 → List Byte → Vector Word 4 × Vector Word 5) : Prop :=
  i.wellFormed = true ∧
  ∀ s h l k, Ready s h l k → ∃ t, exec i s = .next t ∧ Ready t (F h s.blk.toList) l k

theorem md4Compress_compresses : Compresses .md4Compress fun h B => (md4Block h.1 B, h.2) := by
  refine ⟨rfl, ?_⟩
  rintro s _ _ _ ⟨rfl, rfl, -, rfl⟩
  exact ⟨_, exec_md4Compress s, rfl, rfl, rfl, rfl⟩

theorem sha1Compress_compresses : Compresses .sha1Compress fun h B => (h.1, sha1Block h.2 B) := by
  refine ⟨rfl, ?_⟩
  rintro s _ _ _ ⟨rfl, rfl, -, rfl⟩
  exact ⟨_, exec_sha1Compress s, rfl, rfl, rfl, rfl⟩

/-- After LEN and PAD the chaining states are the old ones. -/
theorem ready_of_pad (c : State) (L : Nat) (e : Endian) :
    Ready (succeed (writePadding e (blockSize 6) (c.setLen (BitVec.ofNat 64 L)))) (c.h4, c.h5) (BitVec.ofNat 64 L)
      c.sticky where
  chaining := by simp
  len := by simp
  lastErr := by simp
  sticky := by simp

section
variable {i : Instr} {F : Vector Word 4 × Vector Word 5 → List Byte → Vector Word 4 × Vector Word 5}

/-- One block: seventeen writes. -/
theorem Compresses.performs_block (hi : Compresses i F) {B : List Byte} (hB : B.length = 64) {c : State}
    {h : Vector Word 4 × Vector Word 5} {l : DWord} {k : Bool} (hc : Ready c h l k) :
    ∃ t, Performs ([HostOp.blk B, .command i].flatMap HostOp.expand) (List.replicate 17 .written) c t ∧
      Ready t (F h B) l k := by
  obtain ⟨b, rfl⟩ := exists_vector_toList hB
  obtain ⟨t, ht, hready⟩ := hi.2 (c.setBlk b) h l k ⟨hc.chaining, hc.len, hc.lastErr, hc.sticky⟩
  refine ⟨t, ?_, hready⟩
  rw [List.flatMap_cons, List.flatMap_singleton]
  exact (performs_blk c b).append (performs_command hi.1 ht)

/-- The first `n` blocks of a stream, by induction on `n`. -/
theorem Compresses.performs_blocks (hi : Compresses i F) (S : List Byte) {c : State}
    {h : Vector Word 4 × Vector Word 5} {l : DWord} {k : Bool} (hc : Ready c h l k) {n : Nat}
    (hn : n ≤ S.length / 64) :
    ∃ t, Performs (((List.range n).flatMap fun j => [HostOp.blk (blockAt S j), .command i]).flatMap HostOp.expand)
        (List.replicate (17 * n) .written) c t ∧
      Ready t ((List.range n).foldl (fun h j => F h (blockAt S j)) h) l k := by
  induction n with
  | zero => exact ⟨c, Performs.nil c, hc⟩
  | succ n ih =>
    obtain ⟨t, ht, htready⟩ := ih (by omega)
    have hB : (blockAt S n).length = 64 := by rw [blockAt, List.length_take, List.length_drop]; omega
    obtain ⟨u, hu, huready⟩ := hi.performs_block hB htready
    refine ⟨u, ?_, ?_⟩
    · rw [List.range_succ, List.flatMap_append, List.flatMap_append, List.flatMap_singleton, Nat.mul_succ,
        ← List.replicate_append_replicate]
      exact ht.append hu
    · rw [List.range_succ, List.foldl_append]
      exact huready

/-- The part the two host sequences share: LEN, PAD and the blocks of the stream. -/
theorem Compresses.performs_body (hi : Compresses i F) (L : Nat) (e : Endian) (S : List Byte) (c : State) :
    ∃ t n, Performs (([HostOp.len L, .command (.pad e 6)] ++ compressBlocks i S).flatMap HostOp.expand)
        (List.replicate n .written) c t ∧
      Ready t (foldBlocks F (c.h4, c.h5) S) (BitVec.ofNat 64 L) c.sticky := by
  have hpad := exec_pad_supported e (b := 6) (.inl rfl) (c.setLen (BitVec.ofNat 64 L))
  obtain ⟨t, ht, hready⟩ := hi.performs_blocks S (ready_of_pad c L e) (le_refl _)
  refine ⟨t, 2 + 1 + 17 * (S.length / 64), ?_, hready⟩
  rw [List.flatMap_append, List.flatMap_cons, List.flatMap_singleton, ← List.replicate_append_replicate,
    ← List.replicate_append_replicate]
  exact ((performs_len c L).append (performs_command rfl hpad)).append ht

/-- A whole host sequence: the initial vector, the shared part, and the reads of the digest. -/
theorem Compresses.performs_sequence (hi : Compresses i F) {setiv digest : HostOp} {m : Nat} {c c₁ : State}
    {reads : State → List BusResponse} (hset : Performs setiv.expand (List.replicate m .written) c c₁)
    (hread : ∀ t, Performs digest.expand (reads t) t t) (L : Nat) (e : Endian) (S : List Byte) :
    ∃ t n, Performs
        (([setiv] ++ ([HostOp.len L, .command (.pad e 6)] ++ compressBlocks i S) ++ [digest]).flatMap HostOp.expand)
        (List.replicate n .written ++ reads t) c t ∧
      Ready t (foldBlocks F (c₁.h4, c₁.h5) S) (BitVec.ofNat 64 L) c₁.sticky := by
  obtain ⟨t, n, ht, hready⟩ := hi.performs_body L e S c₁
  refine ⟨t, m + n, ?_, hready⟩
  rw [List.flatMap_append, List.flatMap_append, List.flatMap_singleton, List.flatMap_singleton,
    ← List.replicate_append_replicate]
  exact (hset.append ht).append (hread t)

end

/-- A fold that leaves one of two chaining states alone. -/
theorem foldBlocks_fst {σ τ : Type} (f : σ → List Byte → σ) (h : σ × τ) (S : List Byte) :
    foldBlocks (fun h B => (f h.1 B, h.2)) h S = (foldBlocks f h.1 S, h.2) := by
  unfold foldBlocks
  induction List.range (S.length / 64) generalizing h with
  | nil => rfl
  | cons j js ih => exact ih _

theorem foldBlocks_snd {σ τ : Type} (f : τ → List Byte → τ) (h : σ × τ) (S : List Byte) :
    foldBlocks (fun h B => (h.1, f h.2 B)) h S = (h.1, foldBlocks f h.2 S) := by
  unfold foldBlocks
  induction List.range (S.length / 64) generalizing h with
  | nil => rfl
  | cons j js ih => exact ih _

/-! ### The two host sequences -/

theorem toNat_ofNat_of_lt {L : Nat} (hL : L < 2 ^ 64) : (BitVec.ofNat 64 L).toNat = L := by
  rw [BitVec.toNat_ofNat, Nat.mod_eq_of_lt hL]

/-- Settles O49: the blocks fold H4 from the initial vector, and the reads return the bytes of what they leave. -/
theorem md4SequenceComputesHashCore : Obligations.Md4SequenceComputesHashCore := by
  intro M L iv s rest hL hM hp
  obtain ⟨t, n, hrun, hready⟩ := md4Compress_compresses.performs_sequence (performs_md4Setiv s iv) performs_md4Digest L
    .little (paddedStream .little M L)
  obtain ⟨h4, h5⟩ := Prod.mk.inj (hready.chaining.trans (foldBlocks_fst md4Block _ _))
  refine ⟨_, _, busRead t 0x0C0, busRead t 0x0C4, busRead t 0x0C8, busRead t 0x0CC, n,
    (md4HashCore_eq M L iv).trans (hashCore_of_domain _ _ _ hL hM iv), hrun.run hp, rfl,
    (List.append_assoc _ _ _).symm, ?_, h4, h5, ?_, hready.lastErr, hready.sticky⟩
  · rw [leBytes32_reads_md4Digest, h4]
    rfl
  · exact (congrArg BitVec.toNat hready.len).trans (toNat_ofNat_of_lt hL)

/-- Settles O50: the blocks fold H5 from the initial vector, and the reads return the bytes of what they leave. -/
theorem sha1SequenceComputesHashCore : Obligations.Sha1SequenceComputesHashCore := by
  intro M L iv s rest hL hM hp
  obtain ⟨t, n, hrun, hready⟩ := sha1Compress_compresses.performs_sequence (performs_sha1Setiv s iv)
    performs_sha1Digest L .big (paddedStream .big M L)
  obtain ⟨h4, h5⟩ := Prod.mk.inj (hready.chaining.trans (foldBlocks_snd sha1Block _ _))
  refine ⟨_, _, busRead t 0x0D0, busRead t 0x0D4, busRead t 0x0D8, busRead t 0x0DC, busRead t 0x0E0, n,
    (sha1HashCore_eq M L iv).trans (hashCore_of_domain _ _ _ hL hM iv), hrun.run hp, rfl,
    (List.append_assoc _ _ _).symm, ?_, h5, h4, ?_, hready.lastErr, hready.sticky⟩
  · rw [leBytes32_reads_sha1Digest, h5]
    rfl
  · exact (congrArg BitVec.toNat hready.len).trans (toNat_ofNat_of_lt hL)

end Sys2Proof.Machine
end
